-- ==== Sys2Proof/Word.lean ====
section
/-! DEFINITION. The one word of the block: a byte (`spec/00_scope.md` R8: 8 bits, unsigned, bit 0 the least significant). -/

namespace Sys2Proof

/-- A byte of the register map, of the wire, or of the key buffer (R8). -/
abbrev Byte := BitVec 8

/-- The byte 0xFF: "no key" (`spec/30_encoding.md` R70), and what a read past the end of the map returns (R108). -/
def keyNone : Byte := 0xFF#8

end Sys2Proof
end

