-- ==== Sys2Proof/Config.lean ====
section
/-! DEFINITION. What a build of the firmware fixes (`spec/00_scope.md` R7): the fixed and decided values as numbers, the
OPEN parameters as constants without a body of which only the constraints of R7 are known, and the free choice of
`spec/60_exceptions.md` R187. -/

namespace Sys2Proof

/-- A "(port-identifier, bit-mask) pin descriptor" (`spec/10_state.md` R26, `KP_PINMAP` of `spec/00_scope.md` R7). No rule
reads its content. The spec gives neither part a form (N36 of `spec/91_not_in_source.md`): a natural number for the port
and 8 bits for the mask are the model's, DESIGN CHOICE (log entry 40). -/
structure PinDesc where
  /-- The port-identifier: any natural number (DESIGN CHOICE, log entry 40). -/
  port : Nat
  /-- The bit-mask: 8 bits (DESIGN CHOICE, log entry 40). -/
  mask : Byte
deriving DecidableEq, Repr, Inhabited

/-- The keypad configuration: one pin per row and per column, fixed 4x4 geometry (`spec/10_state.md` R26). -/
structure KpCfg where
  rows : Vector PinDesc 4
  cols : Vector PinDesc 4
deriving DecidableEq, Repr, Inhabited

/-- The OPEN parameters of `spec/00_scope.md` R7, which the spec says the model takes as an argument. They stand in
the state as one field that no operation writes (log entry 1), so a claim over all states covers every build. -/
structure Params where
  /-- `SLAVE_ADDR7` (R62); the transport matches it, no rule reads it. -/
  slaveAddr7 : BitVec 7
  /-- `KP_PINMAP`, the argument of the boot's `KP_INIT` (`spec/70_reset_and_hazards.md` R212). -/
  pinMap : KpCfg
  /-- `KEY_BUF_CAP`, the ring capacity N. -/
  keyBufCap : Nat
  /-- `T_DEBOUNCE`, `T_HOLD`, `T_REPEAT` (`spec/42_keypad.md` R143). -/
  tDebounce : Nat
  tHold : Nat
  tRepeat : Nat
  /-- `TIMER_EVENT_DIV`, ticks per TIMER event (`spec/44_timer_tick.md` R170). -/
  timerEventDiv : Nat
  /-- `CGRAM_SENT_MARK` (`spec/41_events_and_main_loop.md` R133). -/
  cgramSentMark : Byte
deriving DecidableEq, Repr

/-- The constraints R7, R133 and R143 put on the OPEN parameters. -/
abbrev Params.wf (p : Params) : Prop :=
  1 ≤ p.keyBufCap ∧ 2 ≤ p.tDebounce ∧ p.tDebounce < p.tHold ∧ 1 ≤ p.tRepeat ∧ 1 ≤ p.timerEventDiv ∧
    p.cgramSentMark ≠ 0#8 ∧ p.cgramSentMark &&& 0x1F#8 = 0#8

namespace Config

/-- `MAP_SIZE` (R7): the first address past the register map. -/
def mapSize : Nat := 0xA7
/-- `ST_NORMAL`, the byte read at 0x00 (`spec/30_encoding.md` R69). DESIGN CHOICE of the spec, D1 (log entry 2). -/
def stNormal : Byte := 0x00#8
/-- `ST_PROCESSING` (R69). DESIGN CHOICE of the spec, D1 (log entry 2). -/
def stProcessing : Byte := 0x01#8
/-- `CONTRAST_MAX` (R7). -/
def contrastMax : Nat := 63
/-- `CONTRAST_DEFAULT` (R14). DESIGN CHOICE of the spec, D13 (log entry 12). -/
def contrastDefault : Byte := 0x20#8
/-- `CURSORTYPE_DEFAULT` (R15). DESIGN CHOICE of the spec, D13 (log entry 12). -/
def cursorTypeDefault : Byte := 0x00#8
/-- `CURSORROW_DEFAULT` (R16). DESIGN CHOICE of the spec, D13 (log entry 12). -/
def cursorRowDefault : Byte := 0x00#8
/-- `CURSORCOL_DEFAULT` (R16). DESIGN CHOICE of the spec, D13 (log entry 12). -/
def cursorColDefault : Byte := 0x00#8
/-- `CGRAM_BLANK` (R18). DESIGN CHOICE of the spec, D14 (log entry 12). -/
def cgramBlank : Byte := 0x00#8
/-- `CS_DEPTH_MAX` (`spec/43_critical_section.md` R160). DESIGN CHOICE of the spec, D28 (log entry 23). -/
def csDepthMax : Nat := 255
/-- `LINE_STRIDE` and `LINE_VISIBLE` (R7). -/
def lineStride : Nat := 40
def lineVisible : Nat := 16

/-- The OPEN parameters of the build that `State.reset` stands for: constants without a value (log entry 1). Each is
written so that the constraint R7 puts on it holds whatever the constant is. -/
opaque slaveAddr7 : BitVec 7
opaque pinMap : KpCfg
opaque keyBufCapLess1 : Nat
opaque tDebounceLess2 : Nat
opaque tHoldLessDebounce1 : Nat
opaque tRepeatLess1 : Nat
opaque timerEventDivLess1 : Nat
opaque cgramSentMarkHigh : Nat

/-- `CGRAM_SENT_MARK`: any of the seven nonzero bytes with bits 4..0 clear. -/
def cgramSentMark : Byte := BitVec.ofNat 8 ((cgramSentMarkHigh % 7 + 1) * 32)

/-- The parameters of the build (R7): nothing is known of them but `Params.wf`. -/
def params : Params where
  slaveAddr7 := slaveAddr7
  pinMap := pinMap
  keyBufCap := 1 + keyBufCapLess1
  tDebounce := 2 + tDebounceLess2
  tHold := 2 + tDebounceLess2 + 1 + tHoldLessDebounce1
  tRepeat := 1 + tRepeatLess1
  timerEventDiv := 1 + timerEventDivLess1
  cgramSentMark := cgramSentMark

/-- Free choice (`spec/60_exceptions.md` R187: "The model takes either order"): does the timer's handler run first, the
n-th time both interrupts are pending at a delivery? Log entry 22. -/
opaque timerFirst : Nat → Bool

end Config

end Sys2Proof
end

