-- ==== Sys2Proof/Syntax.lean ====
section
/-! DEFINITION. The operations of the block, one constructor for each row of `spec/opcode_table.json`
(`spec/00_scope.md` R2: an "instruction" is one operation of the block). -/

namespace Sys2Proof

/-- The eight event flags (`spec/10_state.md` R23), in the order of their bits (`spec/30_encoding.md` R68). -/
inductive EventFlag
  | timer
  | powerContrast
  | cursorSet
  | cursorDraw
  | drawLine0
  | drawLine1
  | setCgram
  | drawIcon
deriving DecidableEq, Repr

/-- Which of the two events asked for a byte: the read address or an acknowledged byte. The two behave identically and
differ only in what happened on the wire (`spec/40_slave_engine.md` R97). -/
inductive ReadEvent
  | addr
  | ack
deriving DecidableEq, Repr

/-- The operations. `b` is the received byte of a `WRITE_DATA` event (`spec/30_encoding.md` R63), `i` a region index and
so an operand assembled from the cursor (R66), `k` the read event. -/
inductive Instr
  | sWaddr
  | sSetaddr (b : Byte)
  | sSetaddrOor (b : Byte)
  | wrStatus (b : Byte)
  | wrKey (b : Byte)
  | wrPower (b : Byte)
  | wrContrast (b : Byte)
  | wrCursortype (b : Byte)
  | wrCursorrow (b : Byte)
  | wrCursorcol (b : Byte)
  | wrDisplay (i : Fin 80) (b : Byte)
  | wrCgram (i : Fin 64) (b : Byte)
  | wrIcon (i : Fin 16) (b : Byte)
  | wrOor (b : Byte)
  | rdStatus (k : ReadEvent)
  | rdKey (k : ReadEvent)
  | rdPower (k : ReadEvent)
  | rdContrast (k : ReadEvent)
  | rdCursortype (k : ReadEvent)
  | rdCursorrow (k : ReadEvent)
  | rdCursorcol (k : ReadEvent)
  | rdDisplay (k : ReadEvent) (i : Fin 80)
  | rdCgram (k : ReadEvent) (i : Fin 64)
  | rdIcon (k : ReadEvent) (i : Fin 16)
  | rdOor (k : ReadEvent)
  | sRnack
  | sBuserr
  | powerOffReset
  | evRaise (f : EventFlag)
  | evDrain
  | mlPoll
  | dspTimer
  | dspPowerContrast
  | dspCursorSet
  | dspCursorDraw
  | dspDrawLine0
  | dspDrawLine1
  | dspSetCgram
  | dspDrawIcon
  | kpInit (cfg : KpCfg)
  | kpScan
  | kpRead
  | kpInsert (key : Byte)
  | kpCapture
  | kpFront
  | kpFinal
  | kpClear
  | csBegin
  | csEnd
  | tick
  | reset
deriving DecidableEq, Repr

/-- How an operation arrives (`spec/30_encoding.md` R75, the `format` column of the opcode table). -/
inductive Format
  | slv
  | call
  | irq
  | reset
deriving DecidableEq, Repr

/-- The format of each row of the opcode table. -/
def Instr.format : Instr → Format
  | .sWaddr | .sSetaddr _ | .sSetaddrOor _ => .slv
  | .wrStatus _ | .wrKey _ | .wrPower _ | .wrContrast _ | .wrCursortype _ | .wrCursorrow _ | .wrCursorcol _ => .slv
  | .wrDisplay _ _ | .wrCgram _ _ | .wrIcon _ _ | .wrOor _ => .slv
  | .rdStatus _ | .rdKey _ | .rdPower _ | .rdContrast _ | .rdCursortype _ | .rdCursorrow _ | .rdCursorcol _ => .slv
  | .rdDisplay _ _ | .rdCgram _ _ | .rdIcon _ _ | .rdOor _ => .slv
  | .sRnack | .sBuserr => .slv
  | .powerOffReset | .evRaise _ | .evDrain | .mlPoll => .call
  | .dspTimer | .dspPowerContrast | .dspCursorSet | .dspCursorDraw => .call
  | .dspDrawLine0 | .dspDrawLine1 | .dspSetCgram | .dspDrawIcon => .call
  | .kpInit _ | .kpScan | .kpRead | .kpInsert _ | .kpCapture | .kpFront | .kpFinal | .kpClear => .call
  | .csBegin | .csEnd => .call
  | .tick => .irq
  | .reset => .reset

end Sys2Proof
end

