-- ==== Sys2Proof/Machine/State.lean ====
section
/-! DEFINITION. The state of the block as plain data (`spec/10_state.md`), the reasons a step can stop, and the state
right after reset (`spec/10_state.md` R33, `spec/70_reset_and_hazards.md` R211). -/

namespace Sys2Proof.Machine

/-- The two values of `RM.status` (`spec/10_state.md` R11). -/
inductive Status
  | normal
  | processing
deriving DecidableEq, Repr

/-- The register map's bytes 0x01..0xA6 as (address, byte) pairs. Canonical form (`Memory.wf`): addresses strictly
rising, no entry equal to what an unlisted address reads as. Address 0x00 is `RM.status`, which is no stored byte
(`spec/20_memory.md` R44). -/
abbrev Memory := List Host.Cell

/-- Which of the two I2C units raised an event (`spec/30_encoding.md` R64, `spec/70_reset_and_hazards.md` R228). -/
inductive BusUnit
  | slave
  | master
deriving DecidableEq, Repr

/-- One slave event as the transport delivers it (`spec/30_encoding.md` R63, R64): the unit, the kind code, and the
received byte, which only a `WRITE_DATA` event carries (0 for the others). -/
structure SlaveEvent where
  unit : BusUnit
  kind : BitVec 3
  data : Byte
deriving DecidableEq, Repr

/-- A sample of the key matrix: bit `4*r + c` is `pressed(r, c)` of `spec/42_keypad.md` R141. -/
abbrev KeyMatrix := BitVec 16

/-- How far the boot sequence has come (`spec/70_reset_and_hazards.md` R212): the stage named is the next to run. -/
inductive BootStage
  | kpInit
  | masterInit
  | slaveInit
  | timerStart
  | enable
  | running
deriving DecidableEq, Repr

/-- The operations a non-interrupt caller other than the main loop may invoke (`spec/00_scope.md` R6,
`spec/42_keypad.md` R150, `spec/43_critical_section.md` R160, R161). -/
inductive MainCall
  | kpRead
  | kpFront
  | kpFinal
  | kpClear
  | csBegin
  | csEnd
deriving DecidableEq, Repr

/-- The two interrupt sources (`spec/60_exceptions.md` R184). -/
inductive IrqSource
  | i2c
  | timer
deriving DecidableEq, Repr

/-- Who moves next (`spec/00_scope.md` R6: the interleaving is not fixed): `MAIN`, another non-interrupt caller,
the transport with the master's next slave event, the timer with the end of a period, the keys, or the supply, which
starts the firmware again (`spec/70_reset_and_hazards.md` R210). -/
inductive Turn
  | main
  | call (c : MainCall)
  | bus
  | period
  | keys (m : KeyMatrix)
  | restart
deriving DecidableEq, Repr

/-- A pin assignment or a call of the LCD Command Layer (`spec/41_events_and_main_loop.md` R127, R136). The source names
no caller for the last four. -/
inductive LcdCall
  | panelPin (on : Bool)
  | backlightPin (on : Bool)
  | init
  | setContrast (c : Byte)
  | setDisplaySettings (displayOn cursorOn cursorBlink : Bool)
  | setCursor (row col : Byte)
  | writeBytes (bytes : List Byte)
  | writeCgram (slot : Nat) (glyph : List Byte)
  | writeIcon (addr : Nat) (bits : Byte)
  | clearDisplay
  | clearIcons
  | getCursorRow
  | getCursorCol
deriving DecidableEq, Repr

/-- One atomic step `MAIN` still has to make inside the current iteration of its loop
(`spec/41_events_and_main_loop.md` R123): a handler of a drained flag, the rest of a handler that holds more than one
bracket, or a pin assignment or LCD call a handler makes after its bracket. Between any two of them interrupts may run
(R125, R126, R133, R135). -/
inductive MainOp
  | handler (f : EventFlag)
  | latchKey (k : Byte)
  | pushSlot (n : Fin 8)
  | lcdCall (c : LcdCall)
deriving DecidableEq, Repr

/-- What a software call last returned to its caller (the `result` of `EV_DRAIN`, `KP_FRONT`, ...). -/
inductive CallResult
  | none
  | mask (m : BitVec 8)
  | key (k : Byte)
  | inserted (ok : Bool)
deriving DecidableEq, Repr

/-- The faults (`spec/60_exceptions.md` R183), which end the run. All are safe: the real target goes on undetected, the
model gives such a run no meaning. -/
inductive Fault
  /-- `CS_END` with `csDepth` = 0 (`spec/43_critical_section.md` R161, R164). Raised by the guard. Safe. -/
  | csDepthUnderflow
  /-- `CS_BEGIN` with `csDepth` = `CS_DEPTH_MAX` (R160). Raised by the guard. Safe. -/
  | csDepthOverflow
  /-- A keypad operation entered with the ring invariant broken (`spec/42_keypad.md` R144). Raised by `KP_*` operations and
  `TICK`. Safe. -/
  | ringCorrupt
deriving DecidableEq, Repr

/-- The refusals: inputs the spec gives no meaning. -/
inductive Refusal
  /-- An instruction whose meaning is not written yet. Raised by `exec`'s arms only. Safe. -/
  | notModelled (mnemonic : String)
  /-- An event kind outside the six (`spec/40_slave_engine.md` R111). Raised when a slave event is delivered. Safe. -/
  | unknownEventKind
  /-- An event of the other bus unit (R111). Raised when a slave event is delivered. Safe. -/
  | otherBusUnit
  /-- A `KP_INIT` after the boot's (`spec/93_implementation_defined.md` U15). Raised by `KP_INIT`. Safe. -/
  | kpInitTwice
deriving DecidableEq, Repr

/-- The machine. -/
structure State where
  /-- The OPEN parameters of the build; no operation writes them (`spec/00_scope.md` R7; the MODEL's own field). -/
  params : Params
  /-- `RM.status` (`spec/10_state.md` R11). -/
  status : Status
  /-- `RM` at 0x01..0xA6 (R10, R12 to R19). -/
  mem : Memory
  /-- The transfer cursor (R20). -/
  mapAddr : Byte
  /-- "Awaiting address byte" (R21). -/
  writeStart : Bool
  /-- The outputs of the last slave event (R22; held here by the MODEL, log entry 10). -/
  nack : Bool
  tx : Option Byte
  /-- The pending-event bitmask (R23). -/
  evMask : BitVec 8
  /-- The guard's depth and the global interrupt enable (R24). -/
  csDepth : Nat
  gie : Bool
  /-- 1 exactly while an interrupt handler runs (R24). -/
  inIsr : Bool
  /-- The pending bits of the two interrupt sources (R25). -/
  irqI2C : Bool
  irqTimer : Bool
  /-- The event the transport holds while `irqI2C` is pending (`spec/60_exceptions.md` R185). -/
  i2cEvent : SlaveEvent
  /-- The keypad configuration (R26). -/
  kpCfg : KpCfg
  /-- The debounce run (R27). -/
  lastKey : Byte
  checkCount : Nat
  /-- The ring buffer (R28). -/
  kbuf : List Byte
  kbegin : Nat
  kend : Nat
  ksize : Nat
  /-- Ticks since the last TIMER flag (R29). -/
  tickCount : Nat
  /-- How far the boot has come (`spec/70_reset_and_hazards.md` R212). -/
  boot : BootStage
  /-- What `MAIN` still has to do in this iteration; empty at the top of the loop
  (`spec/41_events_and_main_loop.md` R123). -/
  mainOps : List MainOp
  /-- What the last software call returned (the MODEL's own field, log entry 32). -/
  result : CallResult
  /-- The pins as the main loop last drove them (R31). -/
  panelPin : Bool
  backlightPin : Bool
  /-- Every pin assignment and LCD call so far, oldest first (the MODEL's own field, log entry 26). -/
  lcd : List LcdCall
  /-- The key matrix as `KEYS` presents it (`spec/42_keypad.md` R141; input). -/
  keys : KeyMatrix
  /-- The slave events `MASTER` will cause, in wire order (`spec/00_scope.md` R6; input). -/
  bus : List SlaveEvent
  /-- The order in which the agents move; when empty `MAIN` moves (`spec/00_scope.md` R6; input, log entry 28). -/
  turns : List Turn
  /-- How often both interrupts were pending at a delivery (the MODEL's own field, log entry 22). -/
  arbCount : Nat
deriving DecidableEq, Repr

/-- The state right after reset of a build with parameters `p` (`spec/10_state.md` R33): the initialisation of
`spec/70_reset_and_hazards.md` R212 is done and `KP_INIT` is the next step of the boot. -/
def State.initial (p : Params) : State where
  params := p
  status := .normal
  mem := []
  mapAddr := 0x00#8
  writeStart := false
  nack := false
  tx := none
  evMask := 0#8
  csDepth := 0
  gie := false
  inIsr := false
  irqI2C := false
  irqTimer := false
  i2cEvent := ⟨.slave, 0#3, 0#8⟩
  kpCfg := ⟨Vector.replicate 4 ⟨0, 0#8⟩, Vector.replicate 4 ⟨0, 0#8⟩⟩
  lastKey := keyNone
  checkCount := 0
  kbuf := List.replicate p.keyBufCap 0#8
  kbegin := 0
  kend := 0
  ksize := 0
  tickCount := 0
  boot := .kpInit
  mainOps := []
  result := .none
  panelPin := false
  backlightPin := false
  lcd := []
  keys := 0#16
  bus := []
  turns := []
  arbCount := 0

/-- The machine right after reset. -/
def State.reset : State := State.initial Config.params

end Sys2Proof.Machine
end

