-- ==== Sys2Proof/Machine/Flags.lean ====
section
/-! DEFINITION. The event flags and `status` (`spec/30_encoding.md` R68, R69, `spec/41_events_and_main_loop.md` R120 to
R124). -/

namespace Sys2Proof

/-- The flag's bit in `evMask` (`spec/30_encoding.md` R68). DESIGN CHOICE of the spec, D3 (log entry 4). -/
def EventFlag.bit : EventFlag → Nat
  | .timer => 0
  | .powerContrast => 1
  | .cursorSet => 2
  | .cursorDraw => 3
  | .drawLine0 => 4
  | .drawLine1 => 5
  | .setCgram => 6
  | .drawIcon => 7

/-- The byte with that bit alone. -/
def EventFlag.mask (f : EventFlag) : BitVec 8 := 1#8 <<< f.bit

/-- The flags in the order their handlers run: TIMER first, then the source's priority order
(`spec/41_events_and_main_loop.md` R123, R124; D25, log entry 20). -/
def handlerOrder : List EventFlag :=
  [.timer, .powerContrast, .cursorSet, .cursorDraw, .drawLine0, .drawLine1, .setCgram, .drawIcon]

/-- The flags set in a drained mask, in the order of their handlers. -/
def flagsOf (m : BitVec 8) : List EventFlag := handlerOrder.filter fun f => m.getLsbD f.bit

/-- The handler `ML_POLL` runs for a flag (R123). -/
def EventFlag.handler : EventFlag → Instr
  | .timer => .dspTimer
  | .powerContrast => .dspPowerContrast
  | .cursorSet => .dspCursorSet
  | .cursorDraw => .dspCursorDraw
  | .drawLine0 => .dspDrawLine0
  | .drawLine1 => .dspDrawLine1
  | .setCgram => .dspSetCgram
  | .drawIcon => .dspDrawIcon

namespace Machine

/-- The byte a read of address 0x00 returns (`spec/30_encoding.md` R69). -/
def Status.byte : Status → Byte
  | .normal => Config.stNormal
  | .processing => Config.stProcessing

/-- Inside `EV_RAISE`'s bracket: the flag is set and `status` is PROCESSING (R120; D2, log entry 3). -/
def State.raiseFlag (s : State) (f : EventFlag) : State :=
  { s with evMask := s.evMask ||| f.mask, status := .processing }

/-- Inside `EV_DRAIN`'s bracket: all flags cleared, `status` by whether any was set (R122). -/
def State.drainFlags (s : State) : State :=
  { s with evMask := 0#8, status := if s.evMask = 0#8 then .normal else .processing }

end Machine

end Sys2Proof
end

