-- ==== Sys2Proof/WellFormed.lean ====
section
/-! DEFINITION. The operand ranges the rules give that the types of the operands do not already say. -/

namespace Sys2Proof

/-- An operation with its operands in the ranges of its rule: an accepted address byte is at most 0xA6
(`spec/40_slave_engine.md` R82), a rejected one at least 0xA7 (R83), an inserted key code at most 15
(`spec/42_keypad.md` R144). -/
def Instr.wf : Instr → Bool
  | .sSetaddr b => decide (b.toNat < Config.mapSize)
  | .sSetaddrOor b => decide (Config.mapSize ≤ b.toNat)
  | .kpInsert k => decide (k.toNat ≤ 15)
  | .sWaddr | .wrStatus _ | .wrKey _ | .wrPower _ | .wrContrast _ | .wrCursortype _ | .wrCursorrow _ => true
  | .wrCursorcol _ | .wrDisplay _ _ | .wrCgram _ _ | .wrIcon _ _ | .wrOor _ => true
  | .rdStatus _ | .rdKey _ | .rdPower _ | .rdContrast _ | .rdCursortype _ | .rdCursorrow _ | .rdCursorcol _ => true
  | .rdDisplay _ _ | .rdCgram _ _ | .rdIcon _ _ | .rdOor _ | .sRnack | .sBuserr => true
  | .powerOffReset | .evRaise _ | .evDrain | .mlPoll | .dspTimer | .dspPowerContrast | .dspCursorSet => true
  | .dspCursorDraw | .dspDrawLine0 | .dspDrawLine1 | .dspSetCgram | .dspDrawIcon | .kpInit _ | .kpScan => true
  | .kpRead | .kpCapture | .kpFront | .kpFinal | .kpClear | .csBegin | .csEnd | .tick | .reset => true

end Sys2Proof
end

