-- ==== Sys2Proof/Decode.lean ====
section
/-! DEFINITION. Decoding a slave event (`spec/30_encoding.md` R63 to R66, R71), the encoder, and the rows of
`spec/opcode_table.json` as match, mask and ranges. An event reaches the decoder as the two bytes of the 12-bit
selector word `(eventKind << 9) | (writeStart << 8) | mapAddr` of R65, low byte first, and after them, for a
`WRITE_DATA` event only, the received byte (log entry 39). -/

namespace Sys2Proof

/-- Why the decoder gives no operation. -/
inductive DecodeError
  /-- The kind code is 6 or 7, which name no event (R64, R71 (e)). -/
  | unknownEventKind
  /-- Bits 15..12 of the two selector bytes are no part of the selector. -/
  | reservedSelectorBits
  /-- A `WRITE_DATA` event without its byte. -/
  | missingDataByte
  /-- A byte after the selector of an event that carries none (R63). -/
  | unexpectedDataByte
  /-- Neither a selector nor a selector and one byte. -/
  | wrongLength
deriving DecidableEq, Repr

/-- The operation of a data write at cursor `a` (R65, the `WRITE_DATA`, `writeStart` = 0 rows). -/
def decodeWrite (a : Nat) (b : Byte) : Instr :=
  if a = 0x00 then .wrStatus b
  else if a = 0x01 then .wrKey b
  else if a = 0x02 then .wrPower b
  else if a = 0x03 then .wrContrast b
  else if a = 0x04 then .wrCursortype b
  else if a = 0x05 then .wrCursorrow b
  else if a = 0x06 then .wrCursorcol b
  else if h : a - 0x07 < 80 then .wrDisplay ⟨a - 0x07, h⟩ b
  else if h : a - 0x57 < 64 then .wrCgram ⟨a - 0x57, h⟩ b
  else if h : a - 0x97 < 16 then .wrIcon ⟨a - 0x97, h⟩ b
  else .wrOor b

/-- The operation of a read at cursor `a` (R65, the `READ_ADDR` or `READ_ACK` rows). -/
def decodeRead (k : ReadEvent) (a : Nat) : Instr :=
  if a = 0x00 then .rdStatus k
  else if a = 0x01 then .rdKey k
  else if a = 0x02 then .rdPower k
  else if a = 0x03 then .rdContrast k
  else if a = 0x04 then .rdCursortype k
  else if a = 0x05 then .rdCursorrow k
  else if a = 0x06 then .rdCursorcol k
  else if h : a - 0x07 < 80 then .rdDisplay k ⟨a - 0x07, h⟩
  else if h : a - 0x57 < 64 then .rdCgram k ⟨a - 0x57, h⟩
  else if h : a - 0x97 < 16 then .rdIcon k ⟨a - 0x97, h⟩
  else .rdOor k

/-- The operation of an address byte (R65, the `WRITE_DATA`, `writeStart` = 1 rows): the byte is used as it is (R66). -/
def decodeAddress (b : Byte) : Instr :=
  if b.toNat < Config.mapSize then .sSetaddr b else .sSetaddrOor b

/-- R65, with the event kind codes of R64: kind, `writeStart`, cursor, and the received byte if the event carries one. -/
def decodeEvent (kind : Nat) (writeStart : Bool) (a : Nat) (data : Option Byte) : Except DecodeError Instr :=
  match kind, data with
  | 0, none => .ok .sWaddr
  | 1, some b => .ok (if writeStart then decodeAddress b else decodeWrite a b)
  | 1, none => .error .missingDataByte
  | 2, none => .ok (decodeRead .addr a)
  | 3, none => .ok (decodeRead .ack a)
  | 4, none => .ok .sRnack
  | 5, none => .ok .sBuserr
  | _, some _ => .error .unexpectedDataByte
  | _, none => .error .unknownEventKind

/-- The selector's fields out of its two bytes (R65): bits 11..9 the kind, bit 8 `writeStart`, bits 7..0 the cursor. -/
def decodeSelector (lo hi : Byte) (data : Option Byte) : Except DecodeError Instr :=
  if hi.toNat < 16 then decodeEvent (hi.toNat / 2) (hi.getLsbD 0) lo.toNat data
  else .error .reservedSelectorBits

/-- The decoder, total on any bytes. -/
def decode : List Byte → Except DecodeError Instr
  | [lo, hi] => decodeSelector lo hi none
  | [lo, hi, b] => decodeSelector lo hi (some b)
  | _ => .error .wrongLength

/-- The two selector bytes of R65, low byte first. -/
def selectorBytes (kind : Nat) (writeStart : Bool) (a : Nat) : List Byte :=
  [BitVec.ofNat 8 a, BitVec.ofNat 8 (kind * 2 + writeStart.toNat)]

/-- The bytes of a data write at address `a` (R65). -/
def encodeWrite (a : Nat) (b : Byte) : Option (List Byte) := some (selectorBytes 1 false a ++ [b])

/-- The bytes of a read at address `a` (R65): `READ_ADDR` is kind 2, `READ_ACK` kind 3 (R64). -/
def encodeRead (k : ReadEvent) (a : Nat) : Option (List Byte) :=
  match k with
  | .addr => some (selectorBytes 2 false a)
  | .ack => some (selectorBytes 3 false a)

/-- The encoder: the selector (with 0 in the bits R65 gives "any") and the data byte; none for the operations that have
no binary encoding (R75). -/
def encode : Instr → Option (List Byte)
  | .sWaddr => some (selectorBytes 0 false 0)
  | .sSetaddr b => some (selectorBytes 1 true 0 ++ [b])
  | .sSetaddrOor b => some (selectorBytes 1 true 0 ++ [b])
  | .wrStatus b => encodeWrite 0x00 b
  | .wrKey b => encodeWrite 0x01 b
  | .wrPower b => encodeWrite 0x02 b
  | .wrContrast b => encodeWrite 0x03 b
  | .wrCursortype b => encodeWrite 0x04 b
  | .wrCursorrow b => encodeWrite 0x05 b
  | .wrCursorcol b => encodeWrite 0x06 b
  | .wrDisplay i b => encodeWrite (0x07 + i.val) b
  | .wrCgram i b => encodeWrite (0x57 + i.val) b
  | .wrIcon i b => encodeWrite (0x97 + i.val) b
  | .wrOor b => encodeWrite 0xA7 b
  | .rdStatus k => encodeRead k 0x00
  | .rdKey k => encodeRead k 0x01
  | .rdPower k => encodeRead k 0x02
  | .rdContrast k => encodeRead k 0x03
  | .rdCursortype k => encodeRead k 0x04
  | .rdCursorrow k => encodeRead k 0x05
  | .rdCursorcol k => encodeRead k 0x06
  | .rdDisplay k i => encodeRead k (0x07 + i.val)
  | .rdCgram k i => encodeRead k (0x57 + i.val)
  | .rdIcon k i => encodeRead k (0x97 + i.val)
  | .rdOor k => encodeRead k 0xA7
  | .sRnack => some (selectorBytes 4 false 0)
  | .sBuserr => some (selectorBytes 5 false 0)
  | .powerOffReset | .evRaise _ | .evDrain | .mlPoll => none
  | .dspTimer | .dspPowerContrast | .dspCursorSet | .dspCursorDraw => none
  | .dspDrawLine0 | .dspDrawLine1 | .dspSetCgram | .dspDrawIcon => none
  | .kpInit _ | .kpScan | .kpRead | .kpInsert _ | .kpCapture | .kpFront | .kpFinal | .kpClear => none
  | .csBegin | .csEnd | .tick | .reset => none

/-- One SLV row of the opcode table: match and mask over the selector, and the range of the cursor. -/
structure TableRow where
  bits : Nat
  mask : Nat
  addrLo : Nat
  addrHi : Nat
deriving DecidableEq, Repr

/-- The row of `spec/opcode_table.json` that an operation stands in, with the address range narrowed to the operand's own
address for the array regions (R65, R66); none for the rows whose match and mask are null. -/
def Instr.row : Instr → Option TableRow
  | .sWaddr => some ⟨0x000, 0xE00, 0x00, 0xFF⟩
  | .sSetaddr _ => some ⟨0x300, 0xF00, 0x00, 0xFF⟩
  | .sSetaddrOor _ => some ⟨0x300, 0xF00, 0x00, 0xFF⟩
  | .wrStatus _ => some ⟨0x200, 0xFFF, 0x00, 0x00⟩
  | .wrKey _ => some ⟨0x201, 0xFFF, 0x01, 0x01⟩
  | .wrPower _ => some ⟨0x202, 0xFFF, 0x02, 0x02⟩
  | .wrContrast _ => some ⟨0x203, 0xFFF, 0x03, 0x03⟩
  | .wrCursortype _ => some ⟨0x204, 0xFFF, 0x04, 0x04⟩
  | .wrCursorrow _ => some ⟨0x205, 0xFFF, 0x05, 0x05⟩
  | .wrCursorcol _ => some ⟨0x206, 0xFFF, 0x06, 0x06⟩
  | .wrDisplay i _ => some ⟨0x200, 0xF00, 0x07 + i.val, 0x07 + i.val⟩
  | .wrCgram i _ => some ⟨0x200, 0xF00, 0x57 + i.val, 0x57 + i.val⟩
  | .wrIcon i _ => some ⟨0x200, 0xF00, 0x97 + i.val, 0x97 + i.val⟩
  | .wrOor _ => some ⟨0x200, 0xF00, 0xA7, 0xFF⟩
  | .rdStatus _ => some ⟨0x400, 0xCFF, 0x00, 0x00⟩
  | .rdKey _ => some ⟨0x401, 0xCFF, 0x01, 0x01⟩
  | .rdPower _ => some ⟨0x402, 0xCFF, 0x02, 0x02⟩
  | .rdContrast _ => some ⟨0x403, 0xCFF, 0x03, 0x03⟩
  | .rdCursortype _ => some ⟨0x404, 0xCFF, 0x04, 0x04⟩
  | .rdCursorrow _ => some ⟨0x405, 0xCFF, 0x05, 0x05⟩
  | .rdCursorcol _ => some ⟨0x406, 0xCFF, 0x06, 0x06⟩
  | .rdDisplay _ i => some ⟨0x400, 0xC00, 0x07 + i.val, 0x07 + i.val⟩
  | .rdCgram _ i => some ⟨0x400, 0xC00, 0x57 + i.val, 0x57 + i.val⟩
  | .rdIcon _ i => some ⟨0x400, 0xC00, 0x97 + i.val, 0x97 + i.val⟩
  | .rdOor _ => some ⟨0x400, 0xC00, 0xA7, 0xFF⟩
  | .sRnack => some ⟨0x800, 0xE00, 0x00, 0xFF⟩
  | .sBuserr => some ⟨0xA00, 0xE00, 0x00, 0xFF⟩
  | .powerOffReset | .evRaise _ | .evDrain | .mlPoll => none
  | .dspTimer | .dspPowerContrast | .dspCursorSet | .dspCursorDraw => none
  | .dspDrawLine0 | .dspDrawLine1 | .dspSetCgram | .dspDrawIcon => none
  | .kpInit _ | .kpScan | .kpRead | .kpInsert _ | .kpCapture | .kpFront | .kpFinal | .kpClear => none
  | .csBegin | .csEnd | .tick | .reset => none

/-- Does the 12-bit selector word `sel` stand in the row? -/
def TableRow.admits (r : TableRow) (sel : Nat) : Bool :=
  sel &&& r.mask == r.bits && r.addrLo ≤ sel % 256 && sel % 256 ≤ r.addrHi

/-- The byte operand of an operation whose event carries one (R63: `WRITE_DATA`). -/
def Instr.dataByte : Instr → Option Byte
  | .sSetaddr b | .sSetaddrOor b | .wrStatus b | .wrKey b | .wrPower b | .wrContrast b | .wrCursortype b => some b
  | .wrCursorrow b | .wrCursorcol b | .wrDisplay _ b | .wrCgram _ b | .wrIcon _ b | .wrOor b => some b
  | .sWaddr | .rdStatus _ | .rdKey _ | .rdPower _ | .rdContrast _ | .rdCursortype _ | .rdCursorrow _ => none
  | .rdCursorcol _ | .rdDisplay _ _ | .rdCgram _ _ | .rdIcon _ _ | .rdOor _ | .sRnack | .sBuserr => none
  | .powerOffReset | .evRaise _ | .evDrain | .mlPoll | .dspTimer | .dspPowerContrast | .dspCursorSet => none
  | .dspCursorDraw | .dspDrawLine0 | .dspDrawLine1 | .dspSetCgram | .dspDrawIcon | .kpInit _ | .kpScan => none
  | .kpRead | .kpInsert _ | .kpCapture | .kpFront | .kpFinal | .kpClear | .csBegin | .csEnd | .tick | .reset => none

/-- The read event of an operation that is a read (R97). -/
def Instr.readEvent : Instr → Option ReadEvent
  | .rdStatus k | .rdKey k | .rdPower k | .rdContrast k | .rdCursortype k | .rdCursorrow k | .rdCursorcol k => some k
  | .rdDisplay k _ | .rdCgram k _ | .rdIcon k _ | .rdOor k => some k
  | .sWaddr | .sSetaddr _ | .sSetaddrOor _ | .wrStatus _ | .wrKey _ | .wrPower _ | .wrContrast _ => none
  | .wrCursortype _ | .wrCursorrow _ | .wrCursorcol _ | .wrDisplay _ _ | .wrCgram _ _ | .wrIcon _ _ => none
  | .wrOor _ | .sRnack | .sBuserr => none
  | .powerOffReset | .evRaise _ | .evDrain | .mlPoll | .dspTimer | .dspPowerContrast | .dspCursorSet => none
  | .dspCursorDraw | .dspDrawLine0 | .dspDrawLine1 | .dspSetCgram | .dspDrawIcon | .kpInit _ | .kpScan => none
  | .kpRead | .kpInsert _ | .kpCapture | .kpFront | .kpFinal | .kpClear | .csBegin | .csEnd | .tick | .reset => none

/-- The bytes of an instruction whose bits are `w`, numbered as the opcode table numbers them: the selector's two
bytes, and for a `WRITE_DATA` event the data byte, which the table gives no bits (bits 23..16). -/
def tableBytes (nbits w : Nat) : List Byte :=
  let v := w % 2 ^ nbits
  let hi := BitVec.ofNat 8 (v / 256)
  [BitVec.ofNat 8 v, hi] ++ if hi.toNat / 2 = 1 then [BitVec.ofNat 8 (v / 65536)] else []

/-- The operation the decoder reads from an instruction whose bits are `w`. -/
def decodeTableWord (nbits w : Nat) : Option Instr :=
  match decode (tableBytes nbits w) with
  | .ok i => some i
  | .error _ => none

end Sys2Proof
end

