-- ==== Sys2Proof/Machine/Operands.lean ====
section
/-! DEFINITION. The fields of the register map as operands: their addresses (`spec/20_memory.md` R41), the legal values of
a master write (`spec/30_encoding.md` R67), and the line a display index belongs to (R66). -/

namespace Sys2Proof.Machine

/-- The fields `RM.f` of the register map that are stored bytes (`spec/10_state.md` R10). -/
inductive Field
  | keyValue
  | power
  | contrast
  | cursorType
  | cursorRow
  | cursorCol
  | display (i : Fin 80)
  | cgram (i : Fin 64)
  | icon (i : Fin 16)
deriving DecidableEq, Repr

/-- The address map (`spec/20_memory.md` R41). -/
def Field.addr : Field → Nat
  | .keyValue => 0x01
  | .power => 0x02
  | .contrast => 0x03
  | .cursorType => 0x04
  | .cursorRow => 0x05
  | .cursorCol => 0x06
  | .display i => 0x07 + i.val
  | .cgram i => 0x57 + i.val
  | .icon i => 0x97 + i.val

/-- May the master store `b` in the field (`spec/30_encoding.md` R67)? The whole byte is compared. -/
def Field.legal : Field → Byte → Bool
  | .keyValue, _ => true
  | .power, b => decide (b.toNat ≤ 3)
  | .contrast, b => decide (b.toNat ≤ Config.contrastMax)
  | .cursorType, b => decide (b.toNat ≤ 3)
  | .cursorRow, b => decide (b.toNat ≤ 1)
  | .cursorCol, b => decide (b.toNat ≤ 39)
  | .display _, _ => true
  | .cgram _, b => decide (b.toNat ≤ 0x1F)
  | .icon _, b => decide (b.toNat ≤ 0x1F)

/-- "displayRam byte at offset < 40 → DRAW_LINE_0, else DRAW_LINE_1" (R66, `spec/40_slave_engine.md` R93). -/
def lineFlag (i : Fin 80) : EventFlag := if i.val < Config.lineStride then .drawLine0 else .drawLine1

/-- The matrix position (r, c) in a sample (`spec/42_keypad.md` R141). -/
def pressed (m : KeyMatrix) (r c : Nat) : Bool := m.getLsbD (4 * r + c)

/-- Row 0 to row 3, and within a row column 0 to column 3 (R141). -/
def scanOrder : List (Nat × Nat) := (List.range 4).flatMap fun r => (List.range 4).map fun c => (r, c)

/-- The raw key code "`(row*rowSize)+col`" with `rowSize` = 4 (`spec/30_encoding.md` R70; D36, log entry 38). -/
def keyCode (r c : Nat) : Byte := BitVec.ofNat 8 (4 * r + c)

/-- The bytes a pending slave event is decoded from: the selector of `spec/30_encoding.md` R65, assembled from the event,
`writeStart` and the cursor, and the received byte of a `WRITE_DATA` event (kind 1, R64). -/
def fetchBytes (s : State) : List Byte :=
  selectorBytes s.i2cEvent.kind.toNat s.writeStart s.mapAddr.toNat ++
    if s.i2cEvent.kind.toNat = 1 then [s.i2cEvent.data] else []

/-- The operation another non-interrupt caller invokes. -/
def MainCall.instr : MainCall → Instr
  | .kpRead => .kpRead
  | .kpFront => .kpFront
  | .kpFinal => .kpFinal
  | .kpClear => .kpClear
  | .csBegin => .csBegin
  | .csEnd => .csEnd

end Sys2Proof.Machine
end

