-- ==== Sys2Proof/Machine/Ops.lean ====
section
/-! DEFINITION. The shared operations: the register map's memory, the guard, the event mask, rejection, interrupt entry
and return, the common forms of a data write and a data read, the keypad, the tick, and the main loop's pieces. -/

namespace Sys2Proof.Machine

/-! ## Memory -/

/-- What an unlisted address reads as: the reset contents of `spec/10_state.md` R33. -/
def Memory.unlisted (a : Nat) : Byte :=
  if a = 0x01 then keyNone
  else if a = 0x03 then Config.contrastDefault
  else if 0x57 ≤ a ∧ a < 0x97 then Config.cgramBlank
  else 0x00#8

/-- One byte. -/
def Memory.read : Memory → Nat → Byte
  | [], a => Memory.unlisted a
  | (k, x) :: m, a => if a = k then x else Memory.read m a

/-- The memory without its entry for `a`. -/
def Memory.erase : Memory → Nat → Memory
  | [], _ => []
  | (k, x) :: m, a => if k = a then Memory.erase m a else (k, x) :: Memory.erase m a

/-- An entry put where the addresses rise. -/
def Memory.insert : Memory → Nat → Byte → Memory
  | [], a, v => [(a, v)]
  | (k, x) :: m, a, v => if a < k then (a, v) :: (k, x) :: m else (k, x) :: Memory.insert m a v

/-- The store of one byte, which keeps the canonical form. -/
def Memory.write (m : Memory) (a : Nat) (v : Byte) : Memory :=
  if v = Memory.unlisted a then m.erase a else (m.erase a).insert a v

/-- `v` stored at `n` addresses from `a` upward. -/
def Memory.fill (m : Memory) (a : Nat) : Nat → Byte → Memory
  | 0, _ => m
  | n + 1, v => Memory.write (Memory.fill m a n v) (a + n) v

/-- The canonical form above an address: rising, inside the map, no entry that says what an unlisted address says. -/
def Memory.wfAbove : Nat → Memory → Bool
  | _, [] => true
  | lo, (k, x) :: m =>
    decide (lo < k) && decide (k < Config.mapSize) && decide (x ≠ Memory.unlisted k) && Memory.wfAbove k m

/-- The canonical form: addresses 0x01..0xA6, strictly rising, no redundant entry. -/
def Memory.wf (m : Memory) : Bool := Memory.wfAbove 0 m

/-- `MemRead(a, 1)` (`spec/20_memory.md` R44): none where the primitive is not defined. -/
def memRead (s : State) (a : Nat) : Option Byte :=
  if a = 0x00 then some s.status.byte
  else if a < Config.mapSize then some (s.mem.read a)
  else none

/-- `MemWrite(a, 1, v)` (R44): none where the primitive is not defined. -/
def memWrite (s : State) (a : Nat) (v : Byte) : Option State :=
  if 0x01 ≤ a ∧ a < Config.mapSize then some { s with mem := s.mem.write a v } else none

/-- `RM.f`. -/
def State.field (s : State) (f : Field) : Byte := s.mem.read f.addr

/-- `RM.f <- v`, the raw store. -/
def State.setField (s : State) (f : Field) (v : Byte) : State := { s with mem := s.mem.write f.addr v }

/-! ## The critical-section guard -/

/-- `CsBegin()` (`spec/43_critical_section.md` R160; D28, log entry 23). -/
def csBegin (s : State) : Except Fault State :=
  if s.csDepth < Config.csDepthMax then .ok { s with gie := false, csDepth := s.csDepth + 1 }
  else .error .csDepthOverflow

/-- `CsEnd()` (R161, R164). -/
def csEnd (s : State) : Except Fault State :=
  if s.csDepth = 0 then .error .csDepthUnderflow
  else if s.csDepth = 1 then .ok { s with csDepth := 0, gie := true }
  else .ok { s with csDepth := s.csDepth - 1 }

/-- A bracket (R162) that answers a value. -/
def bracketGet {α : Type} (f : State → α × State) (s : State) : Except Fault (α × State) :=
  match csBegin s with
  | .error e => .error e
  | .ok s1 =>
    match csEnd (f s1).2 with
    | .error e => .error e
    | .ok s2 => .ok ((f s1).1, s2)

/-- A bracket (R162). -/
def bracket (f : State → State) (s : State) : Except Fault State :=
  match csBegin s with
  | .error e => .error e
  | .ok s1 => csEnd (f s1)

/-! ## Events -/

/-- `EvRaise(f)` (`spec/41_events_and_main_loop.md` R120). -/
def evRaise (f : EventFlag) (s : State) : Except Fault State := bracket (fun t => t.raiseFlag f) s

/-- `EvDrain()` (R122): the drained mask and the state after. -/
def evDrain (s : State) : Except Fault (BitVec 8 × State) := bracketGet (fun t => (t.evMask, t.drainFlags)) s

/-! ## The slave engine: outputs, rejection, the cursor -/

/-- At the start of every slave event `nack <- 0`, `tx <- absent` (`spec/40_slave_engine.md` R80). -/
def State.beginEvent (s : State) : State := { s with nack := false, tx := none }

/-- `raise Nack(cause)` (`spec/60_exceptions.md` R181): the output `nack` and nothing else. The cause is recorded nowhere
(R180). -/
def State.raiseNack (s : State) : State := { s with nack := true }

/-- `Advance()` (`spec/00_scope.md` R8). -/
def State.advance (s : State) : State := { s with mapAddr := s.mapAddr + 1#8 }

/-- `ReadField()` with the byte `v` of the field (`spec/40_slave_engine.md` R97). -/
def State.respond (s : State) (v : Byte) : State := { s with tx := some v }.advance

/-- `WriteField(F, legal, E, b)` (R84), with the side effect R84 leaves room for between the store and the flag. -/
def writeField (f : Field) (side : State → State) (e : EventFlag) (b : Byte) (s : State) : Except Fault State :=
  if f.legal b then
    if b = s.field f then .ok s.advance
    else
      match evRaise e (side (s.setField f b)) with
      | .error x => .error x
      | .ok t => .ok t.advance
  else .ok s.raiseNack

/-- The stores of `PowerOffReset()` (R88; D13, D14, log entry 12): the four scalars, then the three arrays. -/
@[irreducible] def Memory.powerOff (m : Memory) : Memory :=
  let m1 := m.write (Field.contrast).addr Config.contrastDefault
  let m2 := m1.write (Field.cursorType).addr Config.cursorTypeDefault
  let m3 := m2.write (Field.cursorRow).addr Config.cursorRowDefault
  let m4 := m3.write (Field.cursorCol).addr Config.cursorColDefault
  let m5 := m4.fill 0x07 80 0x00#8
  let m6 := m5.fill 0x57 64 Config.cgramBlank
  m6.fill 0x97 16 0x00#8

/-- `PowerOffReset()` (R88). -/
def powerOffReset (s : State) : State := { s with mem := s.mem.powerOff }

/-! ## Taking an interrupt and returning from it -/

/-- Interrupt entry (`spec/60_exceptions.md` R189): `inIsr <- 1` and the source's pending bit cleared. -/
def enterHandler (src : IrqSource) (s : State) : State :=
  match src with
  | .i2c => { s with inIsr := true, irqI2C := false }
  | .timer => { s with inIsr := true, irqTimer := false }

/-- Interrupt return (R190): `inIsr <- 0`; `gie` and `csDepth` hold the values the handler started with. -/
def leaveHandler (s : State) : State := { s with inIsr := false }

/-- May a pending interrupt be delivered (R186)? -/
def canDeliver (s : State) : Bool := s.gie && !s.inIsr && (s.irqI2C || s.irqTimer)

/-- The source whose handler runs next (R187): the pending one; with both pending the free choice decides. -/
def nextSource (s : State) : IrqSource :=
  match s.irqI2C, s.irqTimer with
  | _, false => .i2c
  | false, true => .timer
  | true, true => if Config.timerFirst s.arbCount then .timer else .i2c

/-- A use of the free choice is counted, so that the next one is free again (log entry 22). -/
def countArbitration (s : State) : State :=
  if s.irqI2C && s.irqTimer then { s with arbCount := s.arbCount + 1 } else s

/-! ## Keypad -/

/-- `KpScan()` (`spec/42_keypad.md` R141; several keys: D19, log entry 16). -/
def kpScan (m : KeyMatrix) : Byte :=
  match scanOrder.find? fun p => pressed m p.1 p.2 with
  | some (r, c) => keyCode r c
  | none => keyNone

/-- `KpRead()` (R142; D20, D21, log entry 17): the reported code and the state after. -/
def kpRead (s : State) : Byte × State :=
  let raw := kpScan s.keys
  if raw ≠ s.lastKey then (keyNone, { s with lastKey := raw, checkCount := 1 })
  else if raw = keyNone then (keyNone, s)
  else
    let n := s.checkCount + 1
    if n = s.params.tDebounce then (raw, { s with checkCount := n })
    else if n = s.params.tHold then (raw, { s with checkCount := n })
    else if n = s.params.tHold + s.params.tRepeat then (raw, { s with checkCount := s.params.tHold })
    else (keyNone, { s with checkCount := n })

/-- The ring invariant of `spec/10_state.md` R28, which every keypad operation is entered with
(`spec/60_exceptions.md` R183). -/
def ringOk (s : State) : Bool :=
  decide (s.ksize ≤ s.params.keyBufCap) && decide (s.kbegin < s.params.keyBufCap) &&
    decide (s.kend < s.params.keyBufCap) && decide (s.kend = (s.kbegin + s.ksize) % s.params.keyBufCap)

/-- A keypad operation entered with the ring invariant broken is `Fault(RingCorrupt)` (R183; log entry 29). -/
def withRing {α : Type} (s : State) (x : Except Fault α) : Except Fault α :=
  if ringOk s then x else .error .ringCorrupt

/-- `KpInsert(k)` (`spec/42_keypad.md` R144): success, and the state after. -/
def kpInsert (k : Byte) (s : State) : Bool × State :=
  if s.ksize = s.params.keyBufCap then (false, s)
  else
    (true, { s with
      kbuf := s.kbuf.set s.kend k
      kend := (s.kend + 1) % s.params.keyBufCap
      ksize := s.ksize + 1 })

/-- `KpCapture()` (R145). -/
def kpCapture (s : State) : Except Fault State :=
  withRing s (.ok (
    let r := kpRead s
    if r.1 = keyNone then r.2 else (kpInsert r.1 r.2).2))

/-- Inside the bracket of `KpFront()` (R146). -/
def frontBody (s : State) : Byte × State :=
  if s.ksize = 0 then (keyNone, s)
  else
    (s.kbuf.getD s.kbegin keyNone,
      { s with kbegin := (s.kbegin + 1) % s.params.keyBufCap, ksize := s.ksize - 1 })

/-- `KpFront()` (R146). -/
def kpFront (s : State) : Except Fault (Byte × State) := withRing s (bracketGet frontBody s)

/-- Inside the bracket of `KpFinal()` (R147; D22, log entry 18). -/
def finalBody (s : State) : Byte × State :=
  if s.ksize = 0 then (keyNone, s)
  else
    (s.kbuf.getD ((s.kend + s.params.keyBufCap - 1) % s.params.keyBufCap) keyNone,
      { s with kbegin := s.kend, ksize := 0 })

/-- `KpFinal()` (R147). -/
def kpFinal (s : State) : Except Fault (Byte × State) := withRing s (bracketGet finalBody s)

/-- `KpClear()` (R148; D22, log entry 18). -/
def kpClear (s : State) : Except Fault State :=
  withRing s (bracket (fun t => { t with kbegin := 0, kend := 0, ksize := 0 }) s)

/-- `KpInit(cfg)` (R140; D17, log entry 12). -/
def kpInit (cfg : KpCfg) (s : State) : State :=
  { s with kpCfg := cfg, lastKey := keyNone, checkCount := 0, kbegin := 0, kend := 0, ksize := 0 }

/-! ## Timer -/

/-- `Tick()` (`spec/44_timer_tick.md` R170; D24, log entry 19). -/
def timerTick (s : State) : Except Fault State :=
  match kpCapture s with
  | .error e => .error e
  | .ok t =>
    if t.tickCount + 1 = t.params.timerEventDiv then evRaise .timer { t with tickCount := 0 }
    else .ok { t with tickCount := t.tickCount + 1 }

/-! ## The main loop's handlers -/

/-- The pin assignments and LCD calls a handler makes after its bracket (`spec/41_events_and_main_loop.md` R125), lined
up in front of `MAIN`'s work. Each is a step of its own: while one stands there the handler waits, and slave events and
ticks run (R135; log entry 27). -/
def State.lineUpCalls (s : State) (cs : List LcdCall) : State := { s with mainOps := cs.map .lcdCall ++ s.mainOps }

/-- The panel pin after a pin assignment or call, from what it was (R127). -/
def LcdCall.panelAfter : LcdCall → Bool → Bool
  | .panelPin on, _ => on
  | _, old => old

/-- The backlight pin after a pin assignment or call, from what it was (R127). -/
def LcdCall.backlightAfter : LcdCall → Bool → Bool
  | .backlightPin on, _ => on
  | _, old => old

/-- One pin assignment or LCD call made: a pin is driven (R127), and either is recorded (R136; log entry 26). -/
def State.makeCall (s : State) (c : LcdCall) : State :=
  { s with
    panelPin := c.panelAfter s.panelPin
    backlightPin := c.backlightAfter s.backlightPin
    lcd := s.lcd ++ [c] }

/-- The second bracket of `DspTimer()` (R126; D25, log entry 20). -/
def latchKey (k : Byte) (s : State) : Except Fault State := bracket (fun t => t.setField .keyValue k) s

/-- `n` bytes of the register map from address `a`, as a handler copies them in its bracket (R125). -/
def copyBytes (s : State) (a n : Nat) : List Byte := (List.range n).map fun j => s.mem.read (a + j)

/-- The bracket of `DspDrawLine(n)` (R130): the line's 16 visible bytes, the cursor row and column. -/
def drawLineBody (n : Nat) (s : State) : (List Byte × Byte × Byte) × State :=
  ((copyBytes s (0x07 + n * Config.lineStride) Config.lineVisible, s.field .cursorRow, s.field .cursorCol), s)

/-- `DspDrawLine(n)` (R130; D32, log entry 26). -/
def drawLine (n : Nat) (s : State) : Except Fault State :=
  match bracketGet (drawLineBody n) s with
  | .error e => .error e
  | .ok ((line, r, c), t) =>
    .ok (t.lineUpCalls [.setCursor (BitVec.ofNat 8 n) 0#8, .writeBytes line, .setCursor r c])

/-- The first byte of glyph slot `n`. -/
def slotFirst (n : Fin 8) : Field := .cgram ⟨n.val * 8, by omega⟩

/-- The bracket of one turn of `DspSetCgram()`'s loop (R133; D16): the glyph if the slot is "not yet sent", and the slot
marked as sent. -/
def pushSlotBody (n : Fin 8) (s : State) : Option (List Byte) × State :=
  let first := s.field (slotFirst n)
  if first.toNat < 0x20 then
    (some (copyBytes s (0x57 + n.val * 8) 8), s.setField (slotFirst n) (first ||| s.params.cgramSentMark))
  else (none, s)

/-- The slots of the loop still to come after slot `n`: each is a bracket of its own (log entry 27). -/
def nextSlot (n : Fin 8) : List MainOp := if h : n.val + 1 < 8 then [.pushSlot ⟨n.val + 1, h⟩] else []

/-- One turn of `DspSetCgram()`'s loop (R133): the bracket; then the glyph's call, if there is one, and the turn of the
next slot are lined up. -/
def pushSlot (n : Fin 8) (s : State) : Except Fault State :=
  match bracketGet (pushSlotBody n) s with
  | .error e => .error e
  | .ok (g, t) => .ok ({ t with mainOps := nextSlot n ++ t.mainOps }.lineUpCalls (g.toList.map (.writeCgram n.val)))

/-! ## Outcomes -/

/-- A shared operation's answer as a step's outcome. -/
def toOutcome : Except Fault State → Host.Outcome State Fault Refusal
  | .ok s => .next s
  | .error e => .fault e

/-- The same for an operation that returns a value to its caller. -/
def toOutcomeWith {α : Type} (result : α → CallResult) : Except Fault (α × State) → Host.Outcome State Fault Refusal
  | .ok (a, s) => .next { s with result := result a }
  | .error e => .fault e

end Sys2Proof.Machine
end

