-- ==== Sys2Proof/Machine/Control.lean ====
section
/-! DEFINITION. The guard's two operations (`spec/43_critical_section.md`), the timer tick (`spec/44_timer_tick.md`) and the
reset of the block (`spec/70_reset_and_hazards.md` section 1). -/

namespace Sys2Proof.Machine

/-- `CS_BEGIN` (R160). -/
def execCsBegin (s : State) : Host.Outcome State Fault Refusal := toOutcome (csBegin s)

/-- `CS_END` (R161, R164). -/
def execCsEnd (s : State) : Host.Outcome State Fault Refusal := toOutcome (csEnd s)

/-- `TICK` (R170). -/
def execTick (s : State) : Host.Outcome State Fault Refusal := toOutcome (timerTick s)

/-- `RESET` (R210, R211): every piece of the block's state at its reset value, the boot before it (R212). What is no state
of the block stays: the build's parameters, the inputs still to come, the record of past LCD calls (log entry 33). -/
def execReset (s : State) : Host.Outcome State Fault Refusal :=
  .next { State.initial s.params with
    lcd := s.lcd, keys := s.keys, bus := s.bus, turns := s.turns, arbCount := s.arbCount }

end Sys2Proof.Machine
end

