-- ==== Sys2Proof/Machine/Display.lean ====
section
/-! DEFINITION. The main loop's handlers (`spec/41_events_and_main_loop.md` section 3). A handler's bracketed copy of the
register map is one atomic step, which lines up the pin assignments and LCD calls made after it; they use the copy (R125)
and are steps of their own (R135; log entry 27). -/

namespace Sys2Proof.Machine

/-- `DSP_TIMER` (R126): `KpFinal()`, one atomic step; a key it returned is stored by `MAIN`'s next step, the handler's
second bracket (log entries 20, 27). -/
def execDspTimer (s : State) : Host.Outcome State Fault Refusal :=
  match kpFinal s with
  | .error e => .fault e
  | .ok (k, t) => .next { t with mainOps := (if k = keyNone then [] else [.latchKey k]) ++ t.mainOps }

/-- `DSP_POWER_CONTRAST` (R127; D38, log entry 26): the pins follow `power`, `init()` on the panel's transition from off
to on, then the contrast. Nothing but these assignments drives the pins, so the panel is "off before" when it is off at
the bracket. -/
def execDspPowerContrast (s : State) : Host.Outcome State Fault Refusal :=
  match bracketGet (fun t => ((t.field .power, t.field .contrast), t)) s with
  | .error e => .fault e
  | .ok ((p, c), t) =>
    let on := p.getLsbD 0
    let start := if !t.panelPin && on then [LcdCall.init] else []
    .next (t.lineUpCalls
      ([LcdCall.panelPin on, LcdCall.backlightPin (p.getLsbD 1)] ++ start ++ [LcdCall.setContrast c]))

/-- `DSP_CURSOR_SET` (R128; `displayOn` is `power[0]`: D32, log entry 26). -/
def execDspCursorSet (s : State) : Host.Outcome State Fault Refusal :=
  match bracketGet (fun t => ((t.field .cursorType, t.field .power), t)) s with
  | .error e => .fault e
  | .ok ((c, p), t) => .next (t.lineUpCalls [.setDisplaySettings (p.getLsbD 0) (c.getLsbD 0) (c.getLsbD 1)])

/-- `DSP_CURSOR_DRAW` (R129). -/
def execDspCursorDraw (s : State) : Host.Outcome State Fault Refusal :=
  match bracketGet (fun t => ((t.field .cursorRow, t.field .cursorCol), t)) s with
  | .error e => .fault e
  | .ok ((r, c), t) => .next (t.lineUpCalls [.setCursor r c])

/-- `DSP_DRAW_LINE_0` (R131). -/
def execDspDrawLine0 (s : State) : Host.Outcome State Fault Refusal := toOutcome (drawLine 0 s)

/-- `DSP_DRAW_LINE_1` (R132). -/
def execDspDrawLine1 (s : State) : Host.Outcome State Fault Refusal := toOutcome (drawLine 1 s)

/-- `DSP_SET_CGRAM` (R133): the loop's turn for slot 0, one bracket; the turns for slots 1 to 7 are the steps `MAIN` makes
next, one bracket each (log entry 27). -/
def execDspSetCgram (s : State) : Host.Outcome State Fault Refusal := toOutcome (pushSlot 0 s)

/-- `DSP_DRAW_ICON` (R134): all 16 icons, whatever changed. -/
def execDspDrawIcon (s : State) : Host.Outcome State Fault Refusal :=
  match bracketGet (fun t => (copyBytes t 0x97 16, t)) s with
  | .error e => .fault e
  | .ok (icons, t) => .next (t.lineUpCalls ((List.range 16).map fun i => .writeIcon i (icons.getD i 0#8)))

end Sys2Proof.Machine
end

