-- ==== Sys2Proof/Machine/Events.lean ====
section
/-! DEFINITION. The event mask's operations and the main loop's dispatch (`spec/41_events_and_main_loop.md` sections 1 and
2). -/

namespace Sys2Proof.Machine

/-- `EV_RAISE` (R120). -/
def execEvRaise (f : EventFlag) (s : State) : Host.Outcome State Fault Refusal := toOutcome (evRaise f s)

/-- `EV_DRAIN` (R122). -/
def execEvDrain (s : State) : Host.Outcome State Fault Refusal := toOutcomeWith .mask (evDrain s)

/-- `ML_POLL` (R123). Its first atomic step is the drain; the handlers of the drained flags are the steps `MAIN` makes
next, in the order of R124, and interrupts may run between them (log entry 27). -/
def execMlPoll (s : State) : Host.Outcome State Fault Refusal :=
  match evDrain s with
  | .error e => .fault e
  | .ok (m, t) => .next { t with result := .mask m, mainOps := (flagsOf m).map .handler ++ t.mainOps }

end Sys2Proof.Machine
end

