-- ==== Sys2Proof/Machine/Keypad.lean ====
section
/-! DEFINITION. The keypad's operations (`spec/42_keypad.md`). Each is entered with the ring invariant or faults
(`spec/60_exceptions.md` R183; log entry 29). -/

namespace Sys2Proof.Machine

/-- `KP_INIT` (R140): once, at boot; a second one is given no meaning (`spec/93_implementation_defined.md` U15, log
entry 30). -/
def execKpInit (cfg : KpCfg) (s : State) : Host.Outcome State Fault Refusal :=
  if s.boot = .kpInit then .next { kpInit cfg s with boot := .masterInit } else .refused .kpInitTwice

/-- `KP_SCAN` (R141). -/
def execKpScan (s : State) : Host.Outcome State Fault Refusal := toOutcomeWith .key (withRing s (.ok (kpScan s.keys, s)))

/-- `KP_READ` (R142). -/
def execKpRead (s : State) : Host.Outcome State Fault Refusal := toOutcomeWith .key (withRing s (.ok (kpRead s)))

/-- `KP_INSERT` (R144). -/
def execKpInsert (k : Byte) (s : State) : Host.Outcome State Fault Refusal :=
  toOutcomeWith .inserted (withRing s (.ok (kpInsert k s)))

/-- `KP_CAPTURE` (R145). -/
def execKpCapture (s : State) : Host.Outcome State Fault Refusal := toOutcome (kpCapture s)

/-- `KP_FRONT` (R146). -/
def execKpFront (s : State) : Host.Outcome State Fault Refusal := toOutcomeWith .key (kpFront s)

/-- `KP_FINAL` (R147). -/
def execKpFinal (s : State) : Host.Outcome State Fault Refusal := toOutcomeWith .key (kpFinal s)

/-- `KP_CLEAR` (R148). -/
def execKpClear (s : State) : Host.Outcome State Fault Refusal := toOutcome (kpClear s)

end Sys2Proof.Machine
end

