-- ==== Sys2Proof/Machine/SlaveRead.lean ====
section
/-! DEFINITION. The read side of the slave engine, and the two events that move no byte (`spec/40_slave_engine.md` sections 3
and 4). The two read events behave identically (R97). -/

namespace Sys2Proof.Machine

/-- `RD_STATUS` (R98). -/
def execRdStatus (_k : ReadEvent) (s : State) : Host.Outcome State Fault Refusal := .next (s.beginEvent.respond s.status.byte)

/-- `RD_KEY` (R99): the read-clear. -/
def execRdKey (_k : ReadEvent) (s : State) : Host.Outcome State Fault Refusal :=
  .next ((s.beginEvent.setField .keyValue keyNone).respond (s.field .keyValue))

/-- `RD_POWER` (R100). -/
def execRdPower (_k : ReadEvent) (s : State) : Host.Outcome State Fault Refusal := .next (s.beginEvent.respond (s.field .power))

/-- `RD_CONTRAST` (R101). -/
def execRdContrast (_k : ReadEvent) (s : State) : Host.Outcome State Fault Refusal := .next (s.beginEvent.respond (s.field .contrast))

/-- `RD_CURSORTYPE` (R102). -/
def execRdCursortype (_k : ReadEvent) (s : State) : Host.Outcome State Fault Refusal := .next (s.beginEvent.respond (s.field .cursorType))

/-- `RD_CURSORROW` (R103). -/
def execRdCursorrow (_k : ReadEvent) (s : State) : Host.Outcome State Fault Refusal := .next (s.beginEvent.respond (s.field .cursorRow))

/-- `RD_CURSORCOL` (R104). -/
def execRdCursorcol (_k : ReadEvent) (s : State) : Host.Outcome State Fault Refusal := .next (s.beginEvent.respond (s.field .cursorCol))

/-- `RD_DISPLAY` (R105). -/
def execRdDisplay (_k : ReadEvent) (i : Fin 80) (s : State) : Host.Outcome State Fault Refusal :=
  .next (s.beginEvent.respond (s.field (.display i)))

/-- `RD_CGRAM` (R106). The stored byte, unmasked (D15, log entry 13). -/
def execRdCgram (_k : ReadEvent) (i : Fin 64) (s : State) : Host.Outcome State Fault Refusal :=
  .next (s.beginEvent.respond (s.field (.cgram i)))

/-- `RD_ICON` (R107). -/
def execRdIcon (_k : ReadEvent) (i : Fin 16) (s : State) : Host.Outcome State Fault Refusal :=
  .next (s.beginEvent.respond (s.field (.icon i)))

/-- `RD_OOR` (R108): 0xFF and NACK, the cursor stays (D9, log entry 8). -/
def execRdOor (_k : ReadEvent) (s : State) : Host.Outcome State Fault Refusal :=
  .next { s.beginEvent.raiseNack with tx := some keyNone }

/-- `S_RNACK` (R109): no state change, no byte (D10, log entry 9). -/
def execSRnack (s : State) : Host.Outcome State Fault Refusal := .next s.beginEvent

/-- `S_BUSERR` (R110). -/
def execSBuserr (s : State) : Host.Outcome State Fault Refusal := .next { s.beginEvent with writeStart := false }

end Sys2Proof.Machine
end

