-- ==== Sys2Proof/Machine/SlaveWrite.lean ====
section
/-! DEFINITION. The write side of the slave engine (`spec/40_slave_engine.md` section 2). The decoder selects each
operation by event kind, `writeStart` and cursor (`spec/30_encoding.md` R65); a meaning does what its rule's pseudocode
says and does not decode again (log entry 31). -/

namespace Sys2Proof.Machine

/-- `S_WADDR` (R81). -/
def execSWaddr (s : State) : Host.Outcome State Fault Refusal := .next { s.beginEvent with writeStart := true }

/-- `S_SETADDR` (R82). -/
def execSSetaddr (b : Byte) (s : State) : Host.Outcome State Fault Refusal :=
  .next { s.beginEvent with mapAddr := b, writeStart := false }

/-- `S_SETADDR_OOR` (R83): cause `AddressOutOfRange`, whatever the byte; `writeStart` stays (D7, log entry 7). -/
def execSSetaddrOor (_b : Byte) (s : State) : Host.Outcome State Fault Refusal := .next s.beginEvent.raiseNack

/-- `WR_STATUS` (R85): the byte is discarded, the cursor advances (D6, log entry 6). -/
def execWrStatus (_b : Byte) (s : State) : Host.Outcome State Fault Refusal := .next s.beginEvent.advance

/-- `WR_KEY` (R86): every byte is stored, no flag is raised (D5, log entry 5). -/
def execWrKey (b : Byte) (s : State) : Host.Outcome State Fault Refusal :=
  .next (s.beginEvent.setField .keyValue b).advance

/-- What a changing write of `power` does between the store and the flag (R87): with bit 0 clear, the power-off reset. -/
def powerSideEffect (b : Byte) (s : State) : State := if b.getLsbD 0 then s else powerOffReset s

/-- `WR_POWER` (R87; unchanged value D12, log entry 11). -/
def execWrPower (b : Byte) (s : State) : Host.Outcome State Fault Refusal :=
  toOutcome (writeField .power (powerSideEffect b) .powerContrast b s.beginEvent)

/-- `WR_CONTRAST` (R89). -/
def execWrContrast (b : Byte) (s : State) : Host.Outcome State Fault Refusal :=
  toOutcome (writeField .contrast id .powerContrast b s.beginEvent)

/-- `WR_CURSORTYPE` (R90). -/
def execWrCursortype (b : Byte) (s : State) : Host.Outcome State Fault Refusal :=
  toOutcome (writeField .cursorType id .cursorSet b s.beginEvent)

/-- `WR_CURSORROW` (R91). -/
def execWrCursorrow (b : Byte) (s : State) : Host.Outcome State Fault Refusal :=
  toOutcome (writeField .cursorRow id .cursorDraw b s.beginEvent)

/-- `WR_CURSORCOL` (R92). -/
def execWrCursorcol (b : Byte) (s : State) : Host.Outcome State Fault Refusal :=
  toOutcome (writeField .cursorCol id .cursorDraw b s.beginEvent)

/-- `WR_DISPLAY` (R93). -/
def execWrDisplay (i : Fin 80) (b : Byte) (s : State) : Host.Outcome State Fault Refusal :=
  toOutcome (writeField (.display i) id (lineFlag i) b s.beginEvent)

/-- `WR_CGRAM` (R94; rejected, not masked: D15, log entry 13). -/
def execWrCgram (i : Fin 64) (b : Byte) (s : State) : Host.Outcome State Fault Refusal :=
  toOutcome (writeField (.cgram i) id .setCgram b s.beginEvent)

/-- `WR_ICON` (R95). -/
def execWrIcon (i : Fin 16) (b : Byte) (s : State) : Host.Outcome State Fault Refusal :=
  toOutcome (writeField (.icon i) id .drawIcon b s.beginEvent)

/-- `WR_OOR` (R96): cause `AddressOutOfRange`; nothing changes (D9, log entry 8). -/
def execWrOor (_b : Byte) (s : State) : Host.Outcome State Fault Refusal := .next s.beginEvent.raiseNack

/-- `POWER_OFF_RESET` (R88), the internal procedure of `WR_POWER` on its own. -/
def execPowerOffReset (s : State) : Host.Outcome State Fault Refusal := .next (powerOffReset s)

end Sys2Proof.Machine
end

