-- ==== Sys2Proof/Machine/Dispatch.lean ====
section
/-! DEFINITION. One arm for each operation of the block. -/

namespace Sys2Proof.Machine

def exec (i : Instr) (s : State) : Host.Outcome State Fault Refusal :=
  match i with
  | .sWaddr => Sys2Proof.Machine.execSWaddr s
  | .sSetaddr b => Sys2Proof.Machine.execSSetaddr b s
  | .sSetaddrOor b => Sys2Proof.Machine.execSSetaddrOor b s
  | .wrStatus b => Sys2Proof.Machine.execWrStatus b s
  | .wrKey b => Sys2Proof.Machine.execWrKey b s
  | .wrPower b => Sys2Proof.Machine.execWrPower b s
  | .wrContrast b => Sys2Proof.Machine.execWrContrast b s
  | .wrCursortype b => Sys2Proof.Machine.execWrCursortype b s
  | .wrCursorrow b => Sys2Proof.Machine.execWrCursorrow b s
  | .wrCursorcol b => Sys2Proof.Machine.execWrCursorcol b s
  | .wrDisplay j b => Sys2Proof.Machine.execWrDisplay j b s
  | .wrCgram j b => Sys2Proof.Machine.execWrCgram j b s
  | .wrIcon j b => Sys2Proof.Machine.execWrIcon j b s
  | .wrOor b => Sys2Proof.Machine.execWrOor b s
  | .rdStatus k => Sys2Proof.Machine.execRdStatus k s
  | .rdKey k => Sys2Proof.Machine.execRdKey k s
  | .rdPower k => Sys2Proof.Machine.execRdPower k s
  | .rdContrast k => Sys2Proof.Machine.execRdContrast k s
  | .rdCursortype k => Sys2Proof.Machine.execRdCursortype k s
  | .rdCursorrow k => Sys2Proof.Machine.execRdCursorrow k s
  | .rdCursorcol k => Sys2Proof.Machine.execRdCursorcol k s
  | .rdDisplay k j => Sys2Proof.Machine.execRdDisplay k j s
  | .rdCgram k j => Sys2Proof.Machine.execRdCgram k j s
  | .rdIcon k j => Sys2Proof.Machine.execRdIcon k j s
  | .rdOor k => Sys2Proof.Machine.execRdOor k s
  | .sRnack => Sys2Proof.Machine.execSRnack s
  | .sBuserr => Sys2Proof.Machine.execSBuserr s
  | .powerOffReset => Sys2Proof.Machine.execPowerOffReset s
  | .evRaise f => Sys2Proof.Machine.execEvRaise f s
  | .evDrain => Sys2Proof.Machine.execEvDrain s
  | .mlPoll => Sys2Proof.Machine.execMlPoll s
  | .dspTimer => Sys2Proof.Machine.execDspTimer s
  | .dspPowerContrast => Sys2Proof.Machine.execDspPowerContrast s
  | .dspCursorSet => Sys2Proof.Machine.execDspCursorSet s
  | .dspCursorDraw => Sys2Proof.Machine.execDspCursorDraw s
  | .dspDrawLine0 => Sys2Proof.Machine.execDspDrawLine0 s
  | .dspDrawLine1 => Sys2Proof.Machine.execDspDrawLine1 s
  | .dspSetCgram => Sys2Proof.Machine.execDspSetCgram s
  | .dspDrawIcon => Sys2Proof.Machine.execDspDrawIcon s
  | .kpInit cfg => Sys2Proof.Machine.execKpInit cfg s
  | .kpScan => Sys2Proof.Machine.execKpScan s
  | .kpRead => Sys2Proof.Machine.execKpRead s
  | .kpInsert key => Sys2Proof.Machine.execKpInsert key s
  | .kpCapture => Sys2Proof.Machine.execKpCapture s
  | .kpFront => Sys2Proof.Machine.execKpFront s
  | .kpFinal => Sys2Proof.Machine.execKpFinal s
  | .kpClear => Sys2Proof.Machine.execKpClear s
  | .csBegin => Sys2Proof.Machine.execCsBegin s
  | .csEnd => Sys2Proof.Machine.execCsEnd s
  | .tick => Sys2Proof.Machine.execTick s
  | .reset => Sys2Proof.Machine.execReset s

end Sys2Proof.Machine
end

