-- ==== Sys2Proof/Machine/Schedule.lean ====
section
/-! DEFINITION. Who moves: the delivery of a pending interrupt (`spec/60_exceptions.md` R184 to R190), `MAIN`'s next
atomic step (`spec/70_reset_and_hazards.md` R212, `spec/41_events_and_main_loop.md` R123), and the turns of the
environment (`spec/00_scope.md` R6). -/

namespace Sys2Proof.Machine

/-- The engine's callback (`spec/40_slave_engine.md` R80): the event is decoded into one operation, which runs. An event of
the other unit or of an unknown kind is refused (R111; D29, log entry 24). -/
def slaveCallback (s : State) : Host.Outcome State Fault Refusal :=
  match s.i2cEvent.unit with
  | .master => .refused .otherBusUnit
  | .slave =>
    match decode (fetchBytes s) with
    | .ok i => exec i s
    | .error _ => .refused .unknownEventKind

/-- A handler's answer, the interrupt returned from. -/
def returning : Host.Outcome State Fault Refusal → Host.Outcome State Fault Refusal
  | .next s => .next (leaveHandler s)
  | .fault e => .fault e
  | .refused r => .refused r

/-- One step of `SLV`: entry, the callback, return, as one atomic step (`spec/20_memory.md` R47). -/
def deliverSlave (s : State) : Host.Outcome State Fault Refusal := returning (slaveCallback (enterHandler .i2c s))

/-- One step of `TMR` (`spec/44_timer_tick.md` R170). -/
def deliverTimer (s : State) : Host.Outcome State Fault Refusal := returning (exec .tick (enterHandler .timer s))

/-- The delivery of a pending interrupt (R186, R187). -/
def deliver (s : State) : Host.Outcome State Fault Refusal :=
  match nextSource s with
  | .i2c => deliverSlave (countArbitration s)
  | .timer => deliverTimer (countArbitration s)

/-- One pending atomic step of the main loop's iteration. -/
def runMainOp (op : MainOp) (s : State) : Host.Outcome State Fault Refusal :=
  match op with
  | .handler f => exec f.handler s
  | .latchKey k => toOutcome (latchKey k s)
  | .pushSlot n => toOutcome (pushSlot n s)
  | .lcdCall c => .next (s.makeCall c)

/-- The main loop's next atomic step (R123): at the top of the loop `ML_POLL`, inside an iteration the next of its pieces. -/
def loopStep (s : State) : Host.Outcome State Fault Refusal :=
  match s.mainOps with
  | [] => exec .mlPoll s
  | op :: rest => runMainOp op { s with mainOps := rest }

/-- `MAIN`'s next atomic step: the boot of `spec/70_reset_and_hazards.md` R212 stage by stage (`initMaster`, `initSlave` and
the timer's start act outside the block), then the loop for ever. -/
def mainStep (s : State) : Host.Outcome State Fault Refusal :=
  match s.boot with
  | .kpInit => exec (.kpInit s.params.pinMap) s
  | .masterInit => .next { s with boot := .slaveInit }
  | .slaveInit => .next { s with boot := .timerStart }
  | .timerStart => .next { s with boot := .enable }
  | .enable => .next { s with boot := .running, gie := true }
  | .running => loopStep s

/-- Has `initSlave` registered the callback (R213)? Before it the transport raises no event. -/
def slaveAttached (s : State) : Bool :=
  match s.boot with
  | .kpInit | .masterInit | .slaveInit => false
  | .timerStart | .enable | .running => true

/-- Has the periodic timer been started (R212)? -/
def timerStarted (s : State) : Bool :=
  match s.boot with
  | .kpInit | .masterInit | .slaveInit | .timerStart => false
  | .enable | .running => true

/-- The transport's turn: the master's next event becomes pending, unless the clock is stretched (`spec/10_state.md` R25:
at most one slave event is outstanding), the master has none, or no callback is registered. -/
def busTurn (s : State) : State :=
  if slaveAttached s && !s.irqI2C then
    match s.bus with
    | [] => s
    | e :: rest => { s with bus := rest, irqI2C := true, i2cEvent := e }
  else s

/-- The end of a timer period; one that finds the bit set is merged with it (`spec/44_timer_tick.md` R172). -/
def periodTurn (s : State) : State := if timerStarted s then { s with irqTimer := true } else s

/-- One turn. Another non-interrupt caller runs only once the boot has ended; until then its turn is the boot's. -/
def takeTurn (t : Turn) (s : State) : Host.Outcome State Fault Refusal :=
  match t with
  | .main => mainStep s
  | .call c => if s.boot = .running then exec c.instr s else mainStep { s with turns := .call c :: s.turns }
  | .bus => .next (busTurn s)
  | .period => .next (periodTurn s)
  | .keys m => .next { s with keys := m }
  | .restart => exec .reset s

/-- A pending interrupt that can be delivered is; otherwise the next turn is taken, and with none left `MAIN` moves. -/
def nextStep (s : State) : Host.Outcome State Fault Refusal :=
  if canDeliver s then deliver s
  else
    match s.turns with
    | [] => mainStep s
    | t :: ts => takeTurn t { s with turns := ts }

/-- The state in which the very next step delivers the slave event whose selector and data byte are the bits `w`, numbered
as the opcode table numbers them: boot over, interrupts enabled, the event pending alone, and `writeStart` and the
cursor as the selector says (log entry 25). -/
def placeEvent (s : State) (nbits w : Nat) : State :=
  let v := w % 2 ^ nbits
  { s with
    boot := .running
    gie := true
    inIsr := false
    irqTimer := false
    irqI2C := true
    i2cEvent := ⟨.slave, BitVec.ofNat 3 (v / 512), BitVec.ofNat 8 (v / 65536)⟩
    writeStart := decide (v / 256 % 2 = 1)
    mapAddr := BitVec.ofNat 8 v }

end Sys2Proof.Machine
end

