-- ==== Sys2Proof/Machine/Step.lean ====
section
/-! DEFINITION. One step of the machine, and the state whose next step runs a given instruction word. -/

namespace Sys2Proof.Machine

/-- One step: one atomic step of one agent, or one arrival from the environment (`spec/00_scope.md` R6). -/
def step (s : State) : Host.Outcome State Fault Refusal := nextStep s

/-- `s` with the instruction whose bits are `w` where the next step fetches it: a pending slave event (log entry 25). -/
def State.withFetchWord (s : State) (nbits w : Nat) : State := placeEvent s nbits w

end Sys2Proof.Machine
end

