-- ==== Sys2Proof/Safety.lean ====
section
/-! DEFINITION. What counts as a sound state of the block (`spec/10_state.md` R34), and the terms the statements use. -/

namespace Sys2Proof.Machine

/-! ## Invariants -/

/-- The register map's memory has its canonical form. -/
def MemCanonical (s : State) : Prop := s.mem.wf = true

/-- The field ranges of `spec/10_state.md` R34. -/
def FieldsInRange (s : State) : Prop :=
  (s.field .power).toNat ≤ 3 ∧ (s.field .contrast).toNat ≤ 63 ∧ (s.field .cursorType).toNat ≤ 3 ∧
    (s.field .cursorRow).toNat ≤ 1 ∧ (s.field .cursorCol).toNat ≤ 39 ∧
    ∀ i : Fin 16, (s.field (.icon i)).toNat ≤ 0x1F

/-- The cursor never passes 0xA7 (`spec/10_state.md` R20). -/
def CursorInRange (s : State) : Prop := s.mapAddr.toNat ≤ 0xA7

/-- `status` is PROCESSING whenever `evMask` is not 0 (R34). -/
def PendingIsProcessing (s : State) : Prop := s.evMask ≠ 0#8 → s.status = .processing

/-- The ring buffer of `spec/10_state.md` R28: N cells, the index invariant, and every live entry a key code. -/
def RingSound (s : State) : Prop :=
  1 ≤ s.params.keyBufCap ∧ s.kbuf.length = s.params.keyBufCap ∧ s.ksize ≤ s.params.keyBufCap ∧
    s.kbegin < s.params.keyBufCap ∧ s.kend = (s.kbegin + s.ksize) % s.params.keyBufCap ∧
    ∀ j, j < s.ksize → (s.kbuf.getD ((s.kbegin + j) % s.params.keyBufCap) keyNone).toNat ≤ 15

/-- The debounce run of `spec/10_state.md` R27, under the constraints of `spec/42_keypad.md` R143. -/
def DebounceBounded (s : State) : Prop :=
  s.params.wf ∧ (s.lastKey.toNat ≤ 15 ∨ s.lastKey = keyNone) ∧ s.checkCount ≤ s.params.tHold + s.params.tRepeat - 1

/-- The tick divider of `spec/10_state.md` R29. -/
def TickBounded (s : State) : Prop := s.tickCount < s.params.timerEventDiv

/-- The guard between steps (R24, R34): a bounded depth, 0 until the boot has ended, no handler running, and interrupts
enabled exactly while the boot has ended and no bracket is open. -/
def GuardBalanced (s : State) : Prop :=
  s.csDepth ≤ 255 ∧ s.inIsr = false ∧ (s.boot ≠ .running → s.csDepth = 0) ∧
    (s.gie = true ↔ s.boot = .running ∧ s.csDepth = 0)

/-! ## Terms of the statements -/

/-- Room for one more bracket (`spec/43_critical_section.md` R160). -/
abbrev RoomInGuard (s : State) : Prop := s.csDepth < 255

/-- What a balanced bracket leaves of the guard: the depth as it was, and `gie` = 1 exactly if it was the outermost
(R160, R161). -/
def afterBracket (s : State) : State := { s with gie := decide (s.csDepth = 0) }

/-- A state in which only `MAIN` moves: boot over, no interrupt pending, nothing scheduled. -/
def OnlyMain (s : State) : Prop :=
  s.boot = .running ∧ s.irqI2C = false ∧ s.irqTimer = false ∧ s.turns = []

/-- A rejected slave event (`spec/60_exceptions.md` R181). -/
def rejected (s : State) : State := { s with nack := true, tx := none }

/-- An accepted slave event that only moves the cursor on. -/
def acceptedUnchanged (s : State) : State := { s with nack := false, tx := none, mapAddr := s.mapAddr + 1#8 }

/-- A read event that answered the byte `v` (`spec/40_slave_engine.md` R97). -/
def answered (s : State) (v : Byte) : State := { s with nack := false, tx := some v, mapAddr := s.mapAddr + 1#8 }

/-- The accepted bytes of the common form of a data write (`spec/40_slave_engine.md` R84): the operation `op` on the byte
at address `a`, whose legal values are `legal` and whose flag is `e`. An unchanged byte only advances the cursor; a
changing one is stored, raises the flag (and `status`: D2, log entry 3) and advances the cursor. Nothing else changes: no
other byte of memory, no other field. -/
def AcceptedWrite (op : Byte → Instr) (a : Nat) (legal : Byte → Prop) (e : EventFlag) : Prop :=
  ∀ (b : Byte) (s : State), RoomInGuard s → legal b →
    (memRead s a = some b → exec (op b) s = .next (acceptedUnchanged s)) ∧
    (memRead s a ≠ some b →
      ∃ t, exec (op b) s = .next t ∧
        t = { s with
          mem := t.mem, nack := false, tx := none, mapAddr := s.mapAddr + 1#8
          evMask := s.evMask ||| e.mask, status := .processing, gie := decide (s.csDepth = 0) } ∧
        memRead t a = some b ∧ ∀ x, x ≠ 0 → x ≠ a → memRead t x = memRead s x)

/-- The common form of a data write (R84) of a field with a largest legal value `hi`: a byte above it is rejected, the
others are accepted. -/
def CommonWrite (op : Byte → Instr) (a hi : Nat) (e : EventFlag) : Prop :=
  (∀ (b : Byte) (s : State), hi < b.toNat → exec (op b) s = .next (rejected s)) ∧
    AcceptedWrite op a (fun b => b.toNat ≤ hi) e

/-- What the power-off reset leaves at the addresses it writes (`spec/40_slave_engine.md` R88; the numbers are D13, D14,
log entry 12). -/
def PowerOffDefaults (t : State) : Prop :=
  memRead t 0x03 = some 0x20#8 ∧ (∀ x, 0x04 ≤ x → x ≤ 0xA6 → memRead t x = some 0x00#8)

/-- The live entries of the ring, oldest first (`spec/10_state.md` R28). -/
def entries (s : State) : List Byte :=
  (List.range s.ksize).map fun j => s.kbuf.getD ((s.kbegin + j) % s.params.keyBufCap) keyNone

/-- The operation `i` run `n` times in a row, up to the first fault or refusal. -/
def execTimes : Nat → Instr → State → Host.Outcome State Fault Refusal
  | 0, _, s => .next s
  | n + 1, i, s =>
    match execTimes n i s with
    | .next t => exec i t
    | .fault e => .fault e
    | .refused r => .refused r

/-- The slave events with these kinds and data bytes, each handled by the engine's callback in turn. -/
def handleEvents : List (BitVec 3 × Byte) → State → Host.Outcome State Fault Refusal
  | [], s => .next s
  | (k, b) :: es, s =>
    match slaveCallback { s with i2cEvent := ⟨.slave, k, b⟩ } with
    | .next t => handleEvents es t
    | .fault e => .fault e
    | .refused r => .refused r

/-- May the master store `v` at address `a` in 0x02..0xA6 (`spec/30_encoding.md` R67)? -/
def legalAt (a : Nat) (v : Byte) : Prop :=
  if a = 0x02 then v.toNat ≤ 3
  else if a = 0x03 then v.toNat ≤ 63
  else if a = 0x04 then v.toNat ≤ 3
  else if a = 0x05 then v.toNat ≤ 1
  else if a = 0x06 then v.toNat ≤ 39
  else if a ≤ 0x56 then True
  else v.toNat ≤ 0x1F

/-- The glyph rows of slot `n` as they stand in memory. -/
def glyphRows (s : State) (n : Nat) : List Byte := (List.range 8).map fun r => s.mem.read (0x57 + 8 * n + r)

/-- Is slot `n` "not yet sent" (`spec/41_events_and_main_loop.md` R133)? -/
def notYetSent (s : State) (n : Nat) : Bool := decide ((s.mem.read (0x57 + 8 * n)).toNat < 0x20)

/-- What the turn of slot `n` in `DSP_SET_CGRAM`'s loop leaves (`spec/41_events_and_main_loop.md` R133; D16): a slot not yet
sent has its first byte marked, and the call that pushes it as it stood is lined up; another is left; the turns of the
later slots come next. With `MAIN` alone moving the next step makes the call. -/
def GlyphTurn (n : Fin 8) (s t : State) : Prop :=
  (notYetSent s n.val = true →
    t = { s with
      mem := t.mem, gie := decide (s.csDepth = 0)
      mainOps := .lcdCall (.writeCgram n.val (glyphRows s n.val)) :: nextSlot n ++ s.mainOps } ∧
    memRead t (0x57 + 8 * n.val) = (memRead s (0x57 + 8 * n.val)).map (· ||| s.params.cgramSentMark) ∧
    (∀ a, a ≠ 0x57 + 8 * n.val → memRead t a = memRead s a) ∧
    (OnlyMain s → step t = .next { t with
      lcd := s.lcd ++ [.writeCgram n.val (glyphRows s n.val)], mainOps := nextSlot n ++ s.mainOps })) ∧
  (notYetSent s n.val = false → t = { s with gie := decide (s.csDepth = 0), mainOps := nextSlot n ++ s.mainOps })

/-- The handler `i` makes the calls `cs`: its bracket, one step, lines them up and changes nothing else but `gie`; and with
`MAIN` alone moving, as many steps as there are calls make them in order and leave the pins at `panel` and `backlight`
(`spec/41_events_and_main_loop.md` R125, R135; each call a step of its own: log entry 27). -/
def HandlerMakes (i : Instr) (s : State) (cs : List LcdCall) (panel backlight : Bool) : Prop :=
  ∃ t, exec i s = .next t ∧
    t = { s with gie := decide (s.csDepth = 0), mainOps := cs.map .lcdCall ++ s.mainOps } ∧
    (OnlyMain s → Host.Core.run core cs.length t = .next { s with
      gie := decide (s.csDepth = 0), lcd := s.lcd ++ cs, panelPin := panel, backlightPin := backlight })

/-- The flags pending in `evMask`, in the order of their handlers (`spec/41_events_and_main_loop.md` R123, R124; D25, log
entry 20; bits D3, log entry 4). -/
def pendingInOrder (s : State) : List EventFlag :=
  [.timer, .powerContrast, .cursorSet, .cursorDraw, .drawLine0, .drawLine1, .setCgram, .drawIcon].filter
    fun f => s.evMask.getLsbD f.bit

/-- The pin assignments and LCD calls the handler of a flag makes from the register map as it stands in `s`
(`spec/41_events_and_main_loop.md` R126 to R134; D32, D38, log entry 26). -/
def handlerCalls (s : State) : EventFlag → List LcdCall
  | .timer => []
  | .powerContrast =>
    [.panelPin ((s.mem.read 0x02).getLsbD 0), .backlightPin ((s.mem.read 0x02).getLsbD 1)] ++
      (if s.panelPin = false ∧ (s.mem.read 0x02).getLsbD 0 = true then [.init] else []) ++ [.setContrast (s.mem.read 0x03)]
  | .cursorSet =>
    [.setDisplaySettings ((s.mem.read 0x02).getLsbD 0) ((s.mem.read 0x04).getLsbD 0) ((s.mem.read 0x04).getLsbD 1)]
  | .cursorDraw => [.setCursor (s.mem.read 0x05) (s.mem.read 0x06)]
  | .drawLine0 =>
    [.setCursor 0#8 0#8, .writeBytes ((List.range 16).map fun j => s.mem.read (0x07 + j)),
      .setCursor (s.mem.read 0x05) (s.mem.read 0x06)]
  | .drawLine1 =>
    [.setCursor 1#8 0#8, .writeBytes ((List.range 16).map fun j => s.mem.read (0x2F + j)),
      .setCursor (s.mem.read 0x05) (s.mem.read 0x06)]
  | .setCgram => ((List.range 8).filter (notYetSent s)).map fun n => .writeCgram n (glyphRows s n)
  | .drawIcon => (List.range 16).map fun i => .writeIcon i (s.mem.read (0x97 + i))

end Sys2Proof.Machine
end

