-- ==== Sys2Proof/Certificates/Slice0/Obligations.lean ====
section
/-! DEFINITION. The statements for the provers. Where a statement rests on a decision of the spec (D<n> of
`spec/92_eei_decisions.md`) or on a choice of the model, its docstring names the decision and the log entry. -/

open Sys2Proof Sys2Proof.Machine

/-! ## Encoding -/

/-- Every slave event, with every value of its operands, has an encoding that decodes to it; every other operation has
none (`spec/30_encoding.md` R63, R65, R66, R75). The kind codes are D4 (log entry 4), the byte layout log entry 39. -/
def Obligations.DecodeInvertsEncode : Prop :=
  ∀ i : Instr, i.wf = true →
    (i.format = .slv → ∃ ws, encode i = some ws ∧ decode ws = .ok i) ∧
    (i.format ≠ .slv → encode i = none)

/-- The decoder reads a selector and a data byte as the operation `i` exactly when `i` is well-formed, its row of the
opcode table admits the selector, it carries that byte, and, for a read, the kind is its read event's
(`spec/30_encoding.md` R65, R66); and it reads one exactly for the six kinds, a byte with `WRITE_DATA` alone (R63, R65). -/
def Obligations.DecodeFollowsTheOpcodeTable : Prop :=
  ∀ (sel : Nat) (data : Option Byte), sel < 4096 →
    (∀ i : Instr, decode ([BitVec.ofNat 8 sel, BitVec.ofNat 8 (sel / 256)] ++ data.toList) = .ok i ↔
      i.wf = true ∧ i.dataByte = data ∧ (∃ r, i.row = some r ∧ r.admits sel = true) ∧
        ∀ k, i.readEvent = some k → (k = .addr ↔ sel / 512 = 2)) ∧
    ((∃ i, decode ([BitVec.ofNat 8 sel, BitVec.ofNat 8 (sel / 256)] ++ data.toList) = .ok i) ↔
      sel / 512 ≤ 5 ∧ (data.isSome = true ↔ sel / 512 = 1))

/-- Words written out from the table of `spec/30_encoding.md` R65: kind in bits 11..9, `writeStart` in bit 8, cursor in
bits 7..0, low byte first. -/
def Obligations.SampleWordsDecode : Prop :=
  decode [0b00000000#8, 0b00000000#8] = .ok .sWaddr ∧
  decode [0b00000000#8, 0b00000011#8, 0b10100110#8] = .ok (.sSetaddr 0xA6#8) ∧
  decode [0b00000000#8, 0b00000011#8, 0b10100111#8] = .ok (.sSetaddrOor 0xA7#8) ∧
  decode [0b00000010#8, 0b00000010#8, 0b00000011#8] = .ok (.wrPower 0x03#8) ∧
  decode [0b00101111#8, 0b00000010#8, 0b01000001#8] = .ok (.wrDisplay 40 0x41#8) ∧
  decode [0b10010110#8, 0b00000010#8, 0b00011111#8] = .ok (.wrCgram 63 0x1F#8) ∧
  decode [0b10100110#8, 0b00000010#8, 0b00000001#8] = .ok (.wrIcon 15 0x01#8) ∧
  decode [0b10100111#8, 0b00000010#8, 0b00000000#8] = .ok (.wrOor 0x00#8) ∧
  decode [0b00000001#8, 0b00000100#8] = .ok (.rdKey .addr) ∧
  decode [0b00000001#8, 0b00000110#8] = .ok (.rdKey .ack) ∧
  decode [0b00000000#8, 0b00001000#8] = .ok .sRnack ∧
  decode [0b00000000#8, 0b00001010#8] = .ok .sBuserr

/-! ## Steps -/

/-- With only the I2C interrupt pending and interrupts enabled, a step is the operation the event decodes to, run with
`inIsr` = 1 and the pending bit cleared; `inIsr` is 0 again after it (`spec/60_exceptions.md` R186, R189, R190; D26). R186
says where an interrupt may be delivered; that the very next step delivers it, whatever is scheduled, is the model's
choice (log entry 28), and that handlers are atomic D26 (log entry 21). -/
def Obligations.StepRunsTheDecodedSlaveEvent : Prop :=
  ∀ (s : State) (i : Instr), s.gie = true → s.inIsr = false → s.irqI2C = true → s.irqTimer = false →
    s.i2cEvent.unit = .slave → decode (fetchBytes s) = .ok i →
    i.wf = true ∧
    (∀ t, exec i { s with inIsr := true, irqI2C := false } = .next t → step s = .next { t with inIsr := false }) ∧
    (∀ e, exec i { s with inIsr := true, irqI2C := false } = .fault e → step s = .fault e)

/-- With only the timer interrupt pending and interrupts enabled, a step is `TICK`, entered and left in the same way
(`spec/60_exceptions.md` R186, R189, R190). That the very next step delivers it, whatever is scheduled, is the model's
choice (log entry 28), and that handlers are atomic D26 (log entry 21). -/
def Obligations.StepRunsTheTick : Prop :=
  ∀ s : State, s.gie = true → s.inIsr = false → s.irqI2C = false → s.irqTimer = true →
    (∀ t, exec .tick { s with inIsr := true, irqTimer := false } = .next t → step s = .next { t with inIsr := false }) ∧
    (∀ e, exec .tick { s with inIsr := true, irqTimer := false } = .fault e → step s = .fault e)

/-- With no interrupt to deliver and `MAIN` to move (nothing scheduled, or its turn), a step is the next stage of the boot,
or the next piece of the main loop: `ML_POLL` at its top, and inside an iteration what is first in line: a handler; the
pin assignment or LCD call a handler waits for, which is recorded; the key latch's store; the turn of a glyph slot
(`spec/70_reset_and_hazards.md` R212, `spec/41_events_and_main_loop.md` R123, R125, R126, R127, R133). The boot order is
D30 (log entry 25), the key latch D25 (log entry 20), the mark of a glyph D16 (log entry 1), the record of calls log entry
26, the cut of an iteration into steps log entry 27, the schedule log entry 28. -/
def Obligations.StepRunsMain : Prop :=
  ∀ s u : State, canDeliver s = false →
    (s.turns = [] ∧ u = s ∨ ∃ ts, s.turns = .main :: ts ∧ u = { s with turns := ts }) →
    (s.boot = .kpInit → step s = exec (.kpInit s.params.pinMap) u) ∧
    (s.boot = .masterInit → step s = .next { u with boot := .slaveInit }) ∧
    (s.boot = .slaveInit → step s = .next { u with boot := .timerStart }) ∧
    (s.boot = .timerStart → step s = .next { u with boot := .enable }) ∧
    (s.boot = .enable → step s = .next { u with boot := .running, gie := true }) ∧
    (s.boot = .running → s.mainOps = [] → step s = exec .mlPoll u) ∧
    (∀ f rest, s.boot = .running → s.mainOps = .handler f :: rest →
      step s = exec f.handler { u with mainOps := rest }) ∧
    (∀ b rest, s.boot = .running → s.mainOps = .lcdCall (.panelPin b) :: rest →
      step s = .next { u with mainOps := rest, panelPin := b, lcd := u.lcd ++ [.panelPin b] }) ∧
    (∀ b rest, s.boot = .running → s.mainOps = .lcdCall (.backlightPin b) :: rest →
      step s = .next { u with mainOps := rest, backlightPin := b, lcd := u.lcd ++ [.backlightPin b] }) ∧
    (∀ c rest, s.boot = .running → s.mainOps = .lcdCall c :: rest →
      (∀ b, c ≠ .panelPin b) → (∀ b, c ≠ .backlightPin b) →
      step s = .next { u with mainOps := rest, lcd := u.lcd ++ [c] }) ∧
    (∀ k rest, s.boot = .running → RoomInGuard s → s.mainOps = .latchKey k :: rest →
      ∃ t, step s = .next t ∧ t = { u with mem := t.mem, gie := decide (s.csDepth = 0), mainOps := rest } ∧
        memRead t 0x01 = some k ∧ ∀ x, x ≠ 0x01 → memRead t x = memRead s x) ∧
    (∀ n rest, s.boot = .running → RoomInGuard s → s.mainOps = .pushSlot n :: rest →
      ∃ t, step s = .next t ∧ GlyphTurn n { u with mainOps := rest } t)

/-- With no interrupt to deliver, a step takes the first scheduled turn: another caller's operation, a restart, a new key
matrix, the master's next event becoming pending (none while one is pending), a timer period becoming pending (merged
with one still pending). `spec/00_scope.md` R6, `spec/60_exceptions.md` R185; the schedule is log entry 28. -/
def Obligations.StepTakesTheTurn : Prop :=
  ∀ (s : State) (ts : List Turn), canDeliver s = false →
    (∀ c, s.turns = .call c :: ts → s.boot = .running → step s = exec c.instr { s with turns := ts }) ∧
    (s.turns = .restart :: ts → step s = exec .reset { s with turns := ts }) ∧
    (∀ m, s.turns = .keys m :: ts → step s = .next { s with turns := ts, keys := m }) ∧
    (∀ e rest, s.turns = .bus :: ts → s.boot = .running → s.irqI2C = false → s.bus = e :: rest →
      step s = .next { s with turns := ts, bus := rest, irqI2C := true, i2cEvent := e }) ∧
    (s.turns = .bus :: ts → s.irqI2C = true → step s = .next { s with turns := ts }) ∧
    (s.turns = .period :: ts → s.boot = .running → step s = .next { s with turns := ts, irqTimer := true })

/-- With interrupts disabled, or while a handler runs, no handler runs: pending interrupts stay pending, and the private
state of the two handlers (cursor, `writeStart`, outputs, tick count) stays (`spec/60_exceptions.md` R186, R192). Only the
supply's restart, which resets everything, is left out. -/
def Obligations.MaskedInterruptsRunNoHandler : Prop :=
  ∀ s t : State, (s.gie = false ∨ s.inIsr = true) → s.turns.head? ≠ some .restart → step s = .next t →
    (s.irqI2C = true → t.irqI2C = true ∧ t.i2cEvent = s.i2cEvent) ∧ (s.irqTimer = true → t.irqTimer = true) ∧
    t.mapAddr = s.mapAddr ∧ t.writeStart = s.writeStart ∧ t.nack = s.nack ∧ t.tx = s.tx ∧ t.tickCount = s.tickCount

/-- With both interrupts pending a step runs one of the two handlers, whichever the free choice takes, and the other
stays pending (`spec/60_exceptions.md` R187; D27, log entry 22). -/
def Obligations.BothPendingEitherHandlerRuns : Prop :=
  ∀ (s : State) (i : Instr), s.gie = true → s.inIsr = false → s.irqI2C = true → s.irqTimer = true →
    s.i2cEvent.unit = .slave → decode (fetchBytes s) = .ok i → RoomInGuard s → ringOk s = true →
    ∃ t u, step s = .next t ∧ t = { u with inIsr := false } ∧
      ((exec i { s with inIsr := true, irqI2C := false, arbCount := s.arbCount + 1 } = .next u ∧
          t.irqI2C = false ∧ t.irqTimer = true) ∨
        (exec .tick { s with inIsr := true, irqTimer := false, arbCount := s.arbCount + 1 } = .next u ∧
          t.irqI2C = true ∧ t.irqTimer = false ∧ t.i2cEvent = s.i2cEvent))

/-- The two orders of a slave event and a tick lead to the same state, but for the byte of an `RD_STATUS`, which is that
of the earlier `status` if the read ran first (`spec/60_exceptions.md` R187, an inference of the spec). -/
def Obligations.HandlerOrderCommutes : Prop :=
  ∀ (s : State) (i : Instr), i.format = .slv → RoomInGuard s → ringOk s = true →
    ∃ u v t w, exec i s = .next u ∧ exec .tick u = .next t ∧ exec .tick s = .next v ∧ exec i v = .next w ∧
      ((∀ k, i ≠ .rdStatus k) → t = w) ∧
      (∀ k, i = .rdStatus k → t = { w with tx := some s.status.byte } ∧ w.tx = some v.status.byte)

/-! ## Invariants -/

/-- Every step keeps the canonical form of the register map's memory, and the ranges of the validated fields
(`spec/10_state.md` R34, an inference of the spec). -/
def Obligations.StepKeepsTheMapInRange : Prop :=
  ∀ s t : State, step s = .next t →
    (MemCanonical s → MemCanonical t) ∧ (FieldsInRange s → FieldsInRange t)

/-- Every step keeps the cursor at or below 0xA7, and `status` PROCESSING while a flag is pending
(`spec/10_state.md` R20, R34; the saturation is D9, log entry 8). -/
def Obligations.StepKeepsCursorAndStatus : Prop :=
  ∀ s t : State, step s = .next t →
    (CursorInRange s → CursorInRange t) ∧ (PendingIsProcessing s → PendingIsProcessing t)

/-- Every step keeps the ring buffer sound: the index invariant, and a key code in every live entry
(`spec/10_state.md` R28, an inference of the spec). -/
def Obligations.StepKeepsTheRingSound : Prop :=
  ∀ s t : State, RingSound s → step s = .next t → RingSound t

/-- Every step keeps the debounce run within `T_HOLD + T_REPEAT - 1` and the tick divider below `TIMER_EVENT_DIV`
(`spec/10_state.md` R27, R29; D20, D24, log entries 17, 19). -/
def Obligations.StepKeepsTheCountersBounded : Prop :=
  ∀ s t : State, step s = .next t →
    (DebounceBounded s → DebounceBounded t) ∧ (TickBounded s → TickBounded t)

/-- Every step keeps the guard balanced: depth at most 255 and 0 during the boot, no handler running between steps, and
interrupts enabled exactly after the boot and outside every bracket (`spec/10_state.md` R24, R34,
`spec/60_exceptions.md` R186; D26, D28, D30, log entries 21, 23, 25). -/
def Obligations.StepKeepsTheGuardBalanced : Prop :=
  ∀ s t : State, GuardBalanced s → step s = .next t → GuardBalanced t

/-- No step changes the build's parameters, and none but the boot's `KP_INIT` and a restart the pin table
(`spec/10_state.md` R26, `spec/00_scope.md` R7; log entry 1). -/
def Obligations.ParametersAndPinTableStay : Prop :=
  ∀ s t : State, step s = .next t →
    t.params = s.params ∧
    (t.kpCfg = s.kpCfg ∨ (s.boot = .kpInit ∧ t.kpCfg = s.params.pinMap) ∨ s.turns.head? = some .restart)

/-- The state right after reset meets every invariant above. -/
def Obligations.ResetMeetsEveryInvariant : Prop :=
  MemCanonical State.reset ∧ FieldsInRange State.reset ∧ CursorInRange State.reset ∧ PendingIsProcessing State.reset ∧
    RingSound State.reset ∧ DebounceBounded State.reset ∧ TickBounded State.reset ∧ GuardBalanced State.reset

/-- From a state with a sound ring and room in the guard no step faults, unless it is another caller's `CS_END` outside
every bracket (`spec/60_exceptions.md` R183). -/
def Obligations.NoFaultFromSoundStates : Prop :=
  ∀ s : State, RingSound s → RoomInGuard s → (s.csDepth = 0 → s.turns.head? ≠ some (.call .csEnd)) →
    ∀ e, step s ≠ .fault e

/-- A step refuses exactly the delivery of a pending event of the other bus unit or outside the six kinds: it refuses
nothing else, and with that event alone pending it does refuse (`spec/40_slave_engine.md` R111; D29, log entry 24). That
the very next step delivers it is log entry 28; the six kinds are the codes 0 to 5 by D4 (log entry 4). -/
def Obligations.ExactlyUnknownEventsAreRefused : Prop :=
  ∀ s : State,
    (∀ r, step s = .refused r →
      canDeliver s = true ∧ s.irqI2C = true ∧
      ((r = .otherBusUnit ∧ s.i2cEvent.unit = .master) ∨
        (r = .unknownEventKind ∧ s.i2cEvent.unit = .slave ∧ 6 ≤ s.i2cEvent.kind.toNat))) ∧
    (s.gie = true → s.inIsr = false → s.irqI2C = true → s.irqTimer = false →
      (s.i2cEvent.unit = .master → step s = .refused .otherBusUnit) ∧
      (s.i2cEvent.unit = .slave → 6 ≤ s.i2cEvent.kind.toNat → step s = .refused .unknownEventKind))

/-! ## Rules over many operations -/

/-- A slave event that answers NACK leaves the state as it was before the event, but for its two outputs
(`spec/60_exceptions.md` R181; the outputs stand in the state: D11, log entry 10). -/
def Obligations.NackedEventChangesNothing : Prop :=
  ∀ (i : Instr) (s t : State), i.format = .slv → exec i s = .next t → t.nack = true →
    t = { s with nack := true, tx := t.tx } ∧ (t.tx = none ∨ t.tx = some 0xFF#8)

/-- Every slave event completes, and changes nothing but the register map, the cursor, `writeStart`, its outputs, and,
through one raise of a flag other than TIMER, the event mask, `status` and `gie` (`spec/60_exceptions.md` R193,
`spec/40_slave_engine.md` R80, R84, `spec/41_events_and_main_loop.md` R120). That a raise sets `status` to PROCESSING is
D2 (log entry 3). -/
def Obligations.SlaveEventsCompleteAndKeepTheRest : Prop :=
  ∀ (i : Instr) (s : State), i.format = .slv → RoomInGuard s →
    ∃ t, exec i s = .next t ∧
      t = { s with
        status := t.status, mem := t.mem, mapAddr := t.mapAddr, writeStart := t.writeStart
        nack := t.nack, tx := t.tx, evMask := t.evMask, gie := t.gie } ∧
      ((t.evMask = s.evMask ∧ t.status = s.status ∧ t.gie = s.gie) ∨
        ∃ f : EventFlag, f ≠ .timer ∧ t.evMask = s.evMask ||| f.mask ∧ t.status = .processing ∧ t.gie = decide (s.csDepth = 0))

/-- The cursor is changed by nothing but an accepted address byte, an accepted data byte or read (by 1), and the reset
(`spec/40_slave_engine.md` R112); `status` goes back to NORMAL by nothing but a drain that finds no flag, and the reset
(`spec/10_state.md` R11). -/
def Obligations.WritersOfCursorAndStatus : Prop :=
  ∀ (i : Instr) (s t : State), exec i s = .next t →
    (t.mapAddr ≠ s.mapAddr →
      i = .sSetaddr t.mapAddr ∨ i = .reset ∨
        (i.format = .slv ∧ t.nack = false ∧ t.mapAddr = s.mapAddr + 1#8 ∧
          (i.readEvent.isSome = true ∨ i.dataByte.isSome = true))) ∧
    (s.status = .processing → t.status = .normal →
      ((i = .evDrain ∨ i = .mlPoll) ∧ s.evMask = 0#8) ∨ i = .reset)

/-- Between interrupts nothing in the register map changes but `keyValue` and the first byte of a glyph slot (and
`status`): the three paths back to the master; and a slave event or tick is delivered as well while a handler waits for
an LCD call: one of the pending interrupts is pending no longer, the other is as it was, and what `MAIN` still has to do,
the pins and the record of calls stay
(`spec/41_events_and_main_loop.md` R135, `spec/60_exceptions.md` R192; that it is delivered at once is log entry 28, the
record of calls log entry 26, the cut into steps log entry 27). -/
def Obligations.MainWritesOnlyKeyAndSentMarks : Prop :=
  (∀ s t : State, canDeliver s = false → s.turns.head? ≠ some .restart → step s = .next t →
    ∀ a, 2 ≤ a → (∀ n, n < 8 → a ≠ 0x57 + 8 * n) → memRead t a = memRead s a) ∧
  (∀ (s : State) (c : LcdCall) (rest : List MainOp), s.mainOps = .lcdCall c :: rest → s.gie = true → s.inIsr = false →
    RoomInGuard s → ringOk s = true →
    (s.irqTimer = true ∨ s.irqI2C = true) →
    (s.irqI2C = true → s.i2cEvent.unit = .slave ∧ s.i2cEvent.kind.toNat < 6) →
    ∃ t, step s = .next t ∧ t.mainOps = .lcdCall c :: rest ∧ t.lcd = s.lcd ∧ t.panelPin = s.panelPin ∧
      t.backlightPin = s.backlightPin ∧
      ((s.irqI2C = true ∧ t.irqI2C = false ∧ t.irqTimer = s.irqTimer) ∨
        (s.irqTimer = true ∧ t.irqTimer = false ∧ t.irqI2C = s.irqI2C)))

/-- A legal value written to an address from 0x02 to 0xA6 is read back there, with the cursor set again before the read
(`spec/20_memory.md` R52); a key code written to 0x01 is read back once, and then "no key" (R45; that the field is
writable: D5, log entry 5). The events carry their kind codes, D4 (log entry 4). -/
def Obligations.WriteThenReadBack : Prop :=
  ∀ (s : State) (v : Byte), RoomInGuard s →
    (∀ a, 2 ≤ a → a ≤ 0xA6 → legalAt a v →
      ∃ t, handleEvents [(0#3, 0#8), (1#3, BitVec.ofNat 8 a), (1#3, v),
          (0#3, 0#8), (1#3, BitVec.ofNat 8 a), (2#3, 0#8)] s = .next t ∧ t.tx = some v ∧ t.nack = false) ∧
    ∃ t u, handleEvents [(0#3, 0#8), (1#3, 0x01#8), (1#3, v), (0#3, 0#8), (1#3, 0x01#8), (2#3, 0#8)] s = .next t ∧
      t.tx = some v ∧
      handleEvents [(0#3, 0#8), (1#3, 0x01#8), (2#3, 0#8)] t = .next u ∧ u.tx = some 0xFF#8

/-- A write transaction of any length inside `displayRam` stores its bytes at consecutive addresses, whatever stood there,
leaves the cursor after the last, and changes no other byte (`spec/20_memory.md` R43, R53, `spec/40_slave_engine.md` R93).
The events carry their kind codes, D4 (log entry 4). -/
def Obligations.BurstWriteFillsTheDisplay : Prop :=
  ∀ (bs : List Byte) (i : Nat) (s : State), RoomInGuard s → i + bs.length ≤ 80 →
    ∃ t, handleEvents ((0#3, 0#8) :: (1#3, BitVec.ofNat 8 (0x07 + i)) :: bs.map fun b => (1#3, b)) s = .next t ∧
      t.mapAddr = BitVec.ofNat 8 (0x07 + i + bs.length) ∧ t.writeStart = false ∧ t.nack = false ∧
      (∀ j, j < bs.length → memRead t (0x07 + i + j) = bs[j]?) ∧
      (∀ a, 0 < a → (a < 0x07 + i ∨ 0x07 + i + bs.length ≤ a) → memRead t a = memRead s a)

/-- A key held over `n` calls of `KP_READ` is reported at call number `T_DEBOUNCE`, `T_HOLD`, and `T_HOLD + m*T_REPEAT` for
every m >= 1, and at no other (`spec/42_keypad.md` R142; D20, log entry 17). -/
def Obligations.HeldKeyIsReportedAtTheThresholds : Prop :=
  ∀ (s : State) (n : Nat), s.params.wf → ringOk s = true → kpScan s.keys ≠ 0xFF#8 → s.lastKey ≠ kpScan s.keys → 1 ≤ n →
    ∃ t, execTimes n .kpRead s = .next t ∧
      ((n = s.params.tDebounce ∨ n = s.params.tHold ∨ ∃ m, 1 ≤ m ∧ n = s.params.tHold + m * s.params.tRepeat) →
        t.result = .key (kpScan s.keys)) ∧
      (¬ (n = s.params.tDebounce ∨ n = s.params.tHold ∨ ∃ m, 1 ≤ m ∧ n = s.params.tHold + m * s.params.tRepeat) →
        t.result = .key 0xFF#8)

/-- The ring buffer is a queue of at most `KEY_BUF_CAP` entries: insertion appends or, when full, changes nothing; the
front read takes the oldest; the final read takes the newest and empties it; the clear empties it
(`spec/10_state.md` R28, `spec/42_keypad.md` R144, R146, R147, R148; the empty final read is D22, log entry 18). -/
def Obligations.RingBufferIsAQueue : Prop :=
  ∀ s : State, RingSound s → RoomInGuard s →
    (∀ k : Byte, ∃ t, exec (.kpInsert k) s = .next t ∧
      ((entries s).length < s.params.keyBufCap → t.result = .inserted true ∧ entries t = entries s ++ [k]) ∧
      ((entries s).length = s.params.keyBufCap → t.result = .inserted false ∧ entries t = entries s)) ∧
    (∃ t, exec .kpFront s = .next t ∧ t.result = .key ((entries s).head?.getD 0xFF#8) ∧
      entries t = (entries s).tail) ∧
    (∃ t, exec .kpFinal s = .next t ∧ t.result = .key ((entries s).getLast?.getD 0xFF#8) ∧ entries t = []) ∧
    (∃ t, exec .kpClear s = .next t ∧ entries t = [])

/-! ## The slave engine's operations -/

/-- `S_SETADDR` (`spec/40_slave_engine.md` R82). -/
def Obligations.SetaddrMovesTheCursor : Prop :=
  ∀ (b : Byte) (s : State), b.toNat ≤ 0xA6 →
    exec (.sSetaddr b) s = .next { s with mapAddr := b, writeStart := false, nack := false, tx := none }

/-- `S_WADDR`, `S_SETADDR_OOR`, `WR_OOR`, `RD_OOR`, `S_RNACK` (`spec/40_slave_engine.md` R81, R83, R96, R108, R109; D7, D9,
D10, D37, log entries 7, 8, 9, 37). -/
def Obligations.AddressPhaseAndRejections : Prop :=
  ∀ s : State,
    exec .sWaddr s = .next { s with writeStart := true, nack := false, tx := none } ∧
    (∀ b : Byte, 0xA7 ≤ b.toNat → exec (.sSetaddrOor b) s = .next { s with nack := true, tx := none }) ∧
    (∀ b, exec (.wrOor b) s = .next { s with nack := true, tx := none }) ∧
    (∀ k, exec (.rdOor k) s = .next { s with nack := true, tx := some 0xFF#8 }) ∧
    exec .sRnack s = .next { s with nack := false, tx := none }

/-- `S_BUSERR` (`spec/40_slave_engine.md` R110). -/
def Obligations.BusErrorClearsWriteStart : Prop :=
  ∀ s : State, exec .sBuserr s = .next { s with writeStart := false, nack := false, tx := none }

/-- `WR_STATUS` advances the cursor and no more (`spec/40_slave_engine.md` R85; D6, log entry 6); `WR_KEY` stores any byte
and raises no flag (R86; D5, log entry 5). -/
def Obligations.StatusAndKeyWrites : Prop :=
  ∀ (b : Byte) (s : State),
    exec (.wrStatus b) s = .next { s with nack := false, tx := none, mapAddr := s.mapAddr + 1#8 } ∧
    ∃ t, exec (.wrKey b) s = .next t ∧
      t = { s with mem := t.mem, nack := false, tx := none, mapAddr := s.mapAddr + 1#8 } ∧
      memRead t 0x01 = some b ∧ ∀ x, x ≠ 0x01 → memRead t x = memRead s x

/-- `WR_POWER` (`spec/40_slave_engine.md` R87, R88): rejected above 3; unchanged, only the cursor advances (D12, log entry
11); changed, it is stored, POWER_CONTRAST and `status` are raised (D2, log entry 3), the cursor advances, and with bit 0
clear the display part takes its defaults (D13, D14, log entry 12), `keyValue` staying. -/
def Obligations.PowerWrite : Prop :=
  ∀ (b : Byte) (s : State), RoomInGuard s →
    (3 < b.toNat → exec (.wrPower b) s = .next (rejected s)) ∧
    (b.toNat ≤ 3 → memRead s 0x02 = some b → exec (.wrPower b) s = .next (acceptedUnchanged s)) ∧
    (b.toNat ≤ 3 → memRead s 0x02 ≠ some b →
      ∃ t, exec (.wrPower b) s = .next t ∧
        t = { s with
          mem := t.mem, nack := false, tx := none, mapAddr := s.mapAddr + 1#8
          evMask := s.evMask ||| EventFlag.powerContrast.mask, status := .processing
          gie := decide (s.csDepth = 0) } ∧
        memRead t 0x02 = some b ∧ memRead t 0x01 = memRead s 0x01 ∧
        (b.getLsbD 0 = true → ∀ x, 0x03 ≤ x → memRead t x = memRead s x) ∧
        (b.getLsbD 0 = false → PowerOffDefaults t))

/-- The four validated scalars take the common form of a data write with their bound and flag
(`spec/40_slave_engine.md` R84, R89 to R92, `spec/30_encoding.md` R67; the raise is D2, log entry 3). -/
def Obligations.ScalarWritesTakeTheCommonForm : Prop :=
  CommonWrite .wrContrast 0x03 63 .powerContrast ∧ CommonWrite .wrCursortype 0x04 3 .cursorSet ∧
    CommonWrite .wrCursorrow 0x05 1 .cursorDraw ∧ CommonWrite .wrCursorcol 0x06 39 .cursorDraw

/-- Every element of the three arrays takes the common form of a data write with its bound and flag; `displayRam` accepts
every byte (`spec/40_slave_engine.md` R84, R93 to R95, `spec/30_encoding.md` R66, R67; D2, D15, log entries 3, 13). -/
def Obligations.ArrayWritesTakeTheCommonForm : Prop :=
  (∀ i : Fin 80, i.val < 40 → AcceptedWrite (.wrDisplay i) (0x07 + i.val) (fun _ => True) .drawLine0) ∧
    (∀ i : Fin 80, 40 ≤ i.val → AcceptedWrite (.wrDisplay i) (0x07 + i.val) (fun _ => True) .drawLine1) ∧
    (∀ i : Fin 64, CommonWrite (.wrCgram i) (0x57 + i.val) 0x1F .setCgram) ∧
    (∀ i : Fin 16, CommonWrite (.wrIcon i) (0x97 + i.val) 0x1F .drawIcon)

/-- Every read below 0xA7 but that of `keyValue` answers the byte `MemRead` gives, advances the cursor, and changes nothing
else (`spec/40_slave_engine.md` R97, R98, R100 to R107, `spec/20_memory.md` R44; D1, D8, D15, log entries 2, 7, 13). -/
def Obligations.ReadsAnswerTheStoredByte : Prop :=
  ∀ (s : State) (k : ReadEvent) (v : Byte),
    (memRead s 0x00 = some v → exec (.rdStatus k) s = .next (answered s v)) ∧
    (memRead s 0x02 = some v → exec (.rdPower k) s = .next (answered s v)) ∧
    (memRead s 0x03 = some v → exec (.rdContrast k) s = .next (answered s v)) ∧
    (memRead s 0x04 = some v → exec (.rdCursortype k) s = .next (answered s v)) ∧
    (memRead s 0x05 = some v → exec (.rdCursorrow k) s = .next (answered s v)) ∧
    (memRead s 0x06 = some v → exec (.rdCursorcol k) s = .next (answered s v)) ∧
    (∀ i : Fin 80, memRead s (0x07 + i.val) = some v → exec (.rdDisplay k i) s = .next (answered s v)) ∧
    (∀ i : Fin 64, memRead s (0x57 + i.val) = some v → exec (.rdCgram k i) s = .next (answered s v)) ∧
    (∀ i : Fin 16, memRead s (0x97 + i.val) = some v → exec (.rdIcon k i) s = .next (answered s v)) ∧
    (memRead s 0x00 = some 0x00#8 ↔ s.status = .normal) ∧ (memRead s 0x00 = some 0x01#8 ↔ s.status = .processing) ∧
    (∀ t, exec (.rdKey k) s = .next t → t.writeStart = s.writeStart)

/-- `RD_KEY` (`spec/40_slave_engine.md` R99): the stored byte, cleared to 0xFF as it is read, and the cursor one on. That
`writeStart` stays as it is, D8 in R97, is no clause here but one of `ReadsAnswerTheStoredByte`. -/
def Obligations.KeyReadClears : Prop :=
  ∀ (s : State) (k : ReadEvent), ∃ t, exec (.rdKey k) s = .next t ∧
    t = { s with mem := t.mem, mapAddr := s.mapAddr + 1#8, nack := false, tx := t.tx, writeStart := t.writeStart } ∧
    t.tx = memRead s 0x01 ∧ memRead t 0x01 = some 0xFF#8 ∧ ∀ x, x ≠ 0x01 → memRead t x = memRead s x

/-- `POWER_OFF_RESET` (`spec/40_slave_engine.md` R88; the numbers are D13, D14, log entry 12). -/
def Obligations.PowerOffResetStoresTheDefaults : Prop :=
  ∀ s : State, ∃ t, exec .powerOffReset s = .next t ∧ t = { s with mem := t.mem } ∧ PowerOffDefaults t ∧
    ∀ x, x ≤ 0x02 → memRead t x = memRead s x

/-! ## Event flags and the main loop -/

/-- `EV_RAISE` sets its flag and `status` (`spec/41_events_and_main_loop.md` R120; D2, log entry 3), and raising a flag
again changes nothing (R121); with no room in the guard it faults (`spec/43_critical_section.md` R160; D28, log entry
23). -/
def Obligations.RaiseSetsTheFlagAndCoalesces : Prop :=
  ∀ (f : EventFlag) (s : State),
    (RoomInGuard s → ∃ t, exec (.evRaise f) s = .next t ∧
      t = { s with evMask := t.evMask, status := .processing, gie := decide (s.csDepth = 0) } ∧
      (∀ g : EventFlag, t.evMask.getLsbD g.bit = (s.evMask.getLsbD g.bit || decide (g = f))) ∧
      exec (.evRaise f) t = .next t) ∧
    (¬ RoomInGuard s → exec (.evRaise f) s = .fault .csDepthOverflow)

/-- `EV_DRAIN` (`spec/41_events_and_main_loop.md` R122). -/
def Obligations.DrainClearsTheMaskAndSetsStatus : Prop :=
  ∀ s : State, RoomInGuard s →
    exec .evDrain s = .next { s with
      evMask := 0#8, status := if s.evMask = 0#8 then .normal else .processing
      gie := decide (s.csDepth = 0), result := .mask s.evMask }

/-- `ML_POLL` drains the mask and lines up the handlers of the drained flags in the order of R124
(`spec/41_events_and_main_loop.md` R123, R124; TIMER first is D25, log entry 20; the cut into steps log entry 27). -/
def Obligations.PollLinesUpTheHandlersInOrder : Prop :=
  ∀ s : State, RoomInGuard s → ∃ fs : List EventFlag,
    exec .mlPoll s = .next { s with
      evMask := 0#8, status := if s.evMask = 0#8 then .normal else .processing
      gie := decide (s.csDepth = 0), result := .mask s.evMask, mainOps := fs.map MainOp.handler ++ s.mainOps } ∧
    fs.Sublist [.timer, .powerContrast, .cursorSet, .cursorDraw, .drawLine0, .drawLine1, .setCgram, .drawIcon] ∧
    ∀ f, f ∈ fs ↔ s.evMask.getLsbD f.bit = true

/-- With `MAIN` alone moving, from the top of the loop, within 54 steps every pending flag has been handled and the next
empty drain has set `status` to NORMAL: the handlers of the pending flags have made their calls, in order; TIMER has taken
the newest key; POWER_CONTRAST has driven the pins; SET_CGRAM has marked the slots it pushed; and nothing else has changed
(`spec/41_events_and_main_loop.md` R122 to R134). The decisions are those of `handlerCalls` and `pendingInOrder` (D3, D16,
D22, D25, D32, D38; log entries 1, 4, 18, 20, 26); the count of steps follows from the cut into steps, log
entry 27, the last result is log entry 32. -/
def Obligations.MainLoopGoesIdle : Prop :=
  ∀ s : State, OnlyMain s → RingSound s → s.csDepth = 0 → s.mainOps = [] →
    ∃ n t, n ≤ 54 ∧ Host.Core.run core n s = .next t ∧
      t = { s with
        status := .normal, evMask := 0#8, gie := true, result := .mask 0#8, mainOps := []
        lcd := s.lcd ++ (pendingInOrder s).flatMap (handlerCalls s)
        mem := t.mem, kbegin := t.kbegin, ksize := t.ksize, panelPin := t.panelPin, backlightPin := t.backlightPin } ∧
      (.powerContrast ∈ pendingInOrder s →
        t.panelPin = (s.mem.read 0x02).getLsbD 0 ∧ t.backlightPin = (s.mem.read 0x02).getLsbD 1) ∧
      (.powerContrast ∉ pendingInOrder s → t.panelPin = s.panelPin ∧ t.backlightPin = s.backlightPin) ∧
      (.timer ∈ pendingInOrder s →
        entries t = [] ∧ memRead t 0x01 = some ((entries s).getLast?.getD (s.mem.read 0x01))) ∧
      (.timer ∉ pendingInOrder s → entries t = entries s ∧ memRead t 0x01 = memRead s 0x01) ∧
      (∀ n, n < 8 → .setCgram ∈ pendingInOrder s → notYetSent s n = true →
        memRead t (0x57 + 8 * n) = (memRead s (0x57 + 8 * n)).map (· ||| s.params.cgramSentMark)) ∧
      (∀ n, n < 8 → .setCgram ∉ pendingInOrder s ∨ notYetSent s n = false →
        memRead t (0x57 + 8 * n) = memRead s (0x57 + 8 * n)) ∧
      ∀ a, 2 ≤ a → (∀ n, n < 8 → a ≠ 0x57 + 8 * n) → memRead t a = memRead s a

/-- `DSP_TIMER` takes the newest key of the ring and empties it; the next step of `MAIN` stores that key in `keyValue`;
with an empty ring nothing is stored (`spec/41_events_and_main_loop.md` R126; D22, D25, log entries 18, 20). -/
def Obligations.TimerHandlerLatchesTheNewestKey : Prop :=
  ∀ s : State, RingSound s → RoomInGuard s → OnlyMain s →
    (entries s = [] → exec .dspTimer s = .next { s with gie := decide (s.csDepth = 0) }) ∧
    (∀ k, (entries s).getLast? = some k →
      ∃ t u, exec .dspTimer s = .next t ∧
        t = { s with gie := decide (s.csDepth = 0), kbegin := t.kbegin, ksize := 0, mainOps := .latchKey k :: s.mainOps } ∧
        step t = .next u ∧ u = { t with mem := u.mem, mainOps := s.mainOps } ∧
        memRead u 0x01 = some k ∧ ∀ x, x ≠ 0x01 → memRead u x = memRead s x)

/-- `DSP_POWER_CONTRAST` drives the pins from `power`, calls `init()` exactly on the panel's transition from off to on, and
then pushes the contrast (`spec/41_events_and_main_loop.md` R127; D38, log entry 26). `DSP_CURSOR_SET` sets the display
from `power` and `cursorType` (R128; `displayOn` is D32, log entry 26). Each call is a step of its own (log entry 27). -/
def Obligations.PowerAndCursorTypeHandlers : Prop :=
  ∀ (s : State) (p c t : Byte), RoomInGuard s →
    memRead s 0x02 = some p → memRead s 0x03 = some c → memRead s 0x04 = some t →
    HandlerMakes .dspPowerContrast s
      ([.panelPin (p.getLsbD 0), .backlightPin (p.getLsbD 1)] ++
        (if s.panelPin = false ∧ p.getLsbD 0 = true then [LcdCall.init] else []) ++ [.setContrast c])
      (p.getLsbD 0) (p.getLsbD 1) ∧
    HandlerMakes .dspCursorSet s [.setDisplaySettings (p.getLsbD 0) (t.getLsbD 0) (t.getLsbD 1)]
      s.panelPin s.backlightPin

/-- `DSP_CURSOR_DRAW` (`spec/41_events_and_main_loop.md` R129; each call is a step of its own: log entry 27). -/
def Obligations.CursorDrawHandlerSetsTheCursor : Prop :=
  ∀ (s : State) (r c : Byte), RoomInGuard s → memRead s 0x05 = some r → memRead s 0x06 = some c →
    HandlerMakes .dspCursorDraw s [.setCursor r c] s.panelPin s.backlightPin

/-- `DSP_DRAW_LINE_0` and `DSP_DRAW_LINE_1` copy exactly the line's 16 visible bytes and restore the cursor
(`spec/41_events_and_main_loop.md` R130 to R132; the positioning call is D32, log entry 26; each call is a step of its
own: log entry 27). -/
def Obligations.LineHandlersCopySixteenBytes : Prop :=
  ∀ (s : State) (r c : Byte) (bytes : List Byte), RoomInGuard s → memRead s 0x05 = some r → memRead s 0x06 = some c →
    bytes.length = 16 →
    ((∀ j, j < 16 → memRead s (0x07 + j) = bytes[j]?) →
      HandlerMakes .dspDrawLine0 s [.setCursor 0#8 0#8, .writeBytes bytes, .setCursor r c] s.panelPin s.backlightPin) ∧
    ((∀ j, j < 16 → memRead s (0x2F + j) = bytes[j]?) →
      HandlerMakes .dspDrawLine1 s [.setCursor 1#8 0#8, .writeBytes bytes, .setCursor r c] s.panelPin s.backlightPin)

/-- One turn of `DSP_SET_CGRAM`'s loop: a slot whose first byte is below 0x20 is marked and pushed, another is left
(`spec/41_events_and_main_loop.md` R133; the mark is D16, log entry 1; each turn is a step of its own: log entry 27). The
handler is the turn of slot 0; `MAIN`'s step with the turn of slot `n` first in line is the turn of slot `n`. -/
def Obligations.GlyphSlotIsPushedOnce : Prop :=
  ∀ s : State, RoomInGuard s →
    (∃ t, exec .dspSetCgram s = .next t ∧ GlyphTurn 0 s t) ∧
    (OnlyMain s → ∀ (n : Fin 8) (rest : List MainOp), s.mainOps = .pushSlot n :: rest →
      ∃ t, step s = .next t ∧ GlyphTurn n { s with mainOps := rest } t)

/-- With `MAIN` alone moving, the turns of the eight slots and the calls they line up, each a step, push every slot that is
not yet sent, in order and once, mark each, and change nothing else (`spec/41_events_and_main_loop.md` R133; D16, log entries 1,
27). -/
def Obligations.SetCgramPushesEveryUnsentSlot : Prop :=
  ∀ (s : State) (rest : List MainOp), OnlyMain s → s.csDepth = 0 → s.mainOps = .handler .setCgram :: rest →
    ∃ t, Host.Core.run core (8 + ((List.range 8).filter (notYetSent s)).length) s = .next t ∧
      t = { s with
        mem := t.mem, gie := true, mainOps := rest
        lcd := s.lcd ++ ((List.range 8).filter (notYetSent s)).map fun n => .writeCgram n (glyphRows s n) } ∧
      (∀ n, n < 8 → notYetSent s n = true →
        memRead t (0x57 + 8 * n) = (memRead s (0x57 + 8 * n)).map (· ||| s.params.cgramSentMark)) ∧
      (∀ n, n < 8 → notYetSent s n = false → memRead t (0x57 + 8 * n) = memRead s (0x57 + 8 * n)) ∧
      (∀ a, (∀ n, n < 8 → a ≠ 0x57 + 8 * n) → memRead t a = memRead s a)

/-- `DSP_DRAW_ICON` pushes all 16 icons (`spec/41_events_and_main_loop.md` R134; each call is a step of its own: log entry
27). -/
def Obligations.IconHandlerPushesAllSixteen : Prop :=
  ∀ (s : State) (icons : List Byte), RoomInGuard s → icons.length = 16 →
    (∀ j, j < 16 → memRead s (0x97 + j) = icons[j]?) →
    HandlerMakes .dspDrawIcon s (icons.zipIdx.map fun p => .writeIcon p.2 p.1) s.panelPin s.backlightPin

/-! ## Keypad -/

/-- `KP_INIT` as the boot calls it stores the pin table and clears the run and the ring (`spec/42_keypad.md` R140; D17, log
entry 12); a second one is refused (U15, log entry 30). -/
def Obligations.KeypadInitOnceAtBoot : Prop :=
  ∀ (cfg : KpCfg) (s : State),
    (s.boot = .kpInit → exec (.kpInit cfg) s = .next { s with
      kpCfg := cfg, lastKey := 0xFF#8, checkCount := 0, kbegin := 0, kend := 0, ksize := 0, boot := .masterInit }) ∧
    (s.boot ≠ .kpInit → exec (.kpInit cfg) s = .refused .kpInitTwice)

/-- `KP_SCAN` answers 0xFF with no key pressed, else the code 4*r + c of the first pressed position, rows before columns,
and changes nothing (`spec/42_keypad.md` R141; D19, D36, log entries 16, 38). `kpScan` is the name of that code below. -/
def Obligations.ScanAnswersTheFirstPressedKey : Prop :=
  ∀ s : State, ringOk s = true →
    exec .kpScan s = .next { s with result := .key (kpScan s.keys) } ∧
    ((∀ r c, r < 4 → c < 4 → pressed s.keys r c = false) → exec .kpScan s = .next { s with result := .key 0xFF#8 }) ∧
    (∀ r c, r < 4 → c < 4 → pressed s.keys r c = true →
      (∀ r' c', r' < 4 → c' < 4 → 4 * r' + c' < 4 * r + c → pressed s.keys r' c' = false) →
      exec .kpScan s = .next { s with result := .key (BitVec.ofNat 8 (4 * r + c)) })

/-- `KP_READ` case by case (`spec/42_keypad.md` R142; D20, D21, log entry 17); `k` is the code the scan answers. -/
def Obligations.ReadFollowsTheDebounceRules : Prop :=
  ∀ (s : State) (k : Byte), ringOk s = true → k = kpScan s.keys →
    (k ≠ s.lastKey → exec .kpRead s = .next { s with lastKey := k, checkCount := 1, result := .key 0xFF#8 }) ∧
    (k = s.lastKey → k = 0xFF#8 → exec .kpRead s = .next { s with result := .key 0xFF#8 }) ∧
    (k = s.lastKey → k ≠ 0xFF#8 → ∀ n, n = s.checkCount + 1 →
      (n = s.params.tDebounce ∨ n = s.params.tHold →
        exec .kpRead s = .next { s with checkCount := n, result := .key k }) ∧
      (n ≠ s.params.tDebounce → n ≠ s.params.tHold → n = s.params.tHold + s.params.tRepeat →
        exec .kpRead s = .next { s with checkCount := s.params.tHold, result := .key k }) ∧
      (n ≠ s.params.tDebounce → n ≠ s.params.tHold → n ≠ s.params.tHold + s.params.tRepeat →
        exec .kpRead s = .next { s with checkCount := n, result := .key 0xFF#8 }))

/-- `KP_INSERT` (`spec/42_keypad.md` R144): full, it fails and changes nothing; else it stores at `kend` and moves it on
modulo N; entered with the ring invariant broken, it is `Fault(RingCorrupt)`. -/
def Obligations.InsertAppendsOrFails : Prop :=
  ∀ (k : Byte) (s : State), k.toNat ≤ 15 →
    (ringOk s = true → s.ksize = s.params.keyBufCap →
      exec (.kpInsert k) s = .next { s with result := .inserted false }) ∧
    (ringOk s = true → s.ksize ≠ s.params.keyBufCap →
      exec (.kpInsert k) s = .next { s with
        kbuf := s.kbuf.set s.kend k, kend := (s.kend + 1) % s.params.keyBufCap, ksize := s.ksize + 1
        result := .inserted true }) ∧
    (ringOk s = false → exec (.kpInsert k) s = .fault .ringCorrupt)

/-- A keypad operation entered with the ring invariant broken is `Fault(RingCorrupt)`, and so are `DSP_TIMER` and `TICK`,
which enter one (`spec/60_exceptions.md` R183; checked at entry: log entry 29). -/
def Obligations.BrokenRingIsAFault : Prop :=
  ∀ s : State, ringOk s = false → ∀ i : Instr,
    (i ∈ [.kpScan, .kpRead, .kpCapture, .kpFront, .kpFinal, .kpClear, .dspTimer, .tick] ∨ ∃ k, i = .kpInsert k) →
      exec i s = .fault .ringCorrupt

/-- `KP_CAPTURE` is `KP_READ` and, if it reports a code, `KP_INSERT` of it, a failure ignored (`spec/42_keypad.md` R145). -/
def Obligations.CaptureInsertsTheReportedKey : Prop :=
  ∀ s : State, ringOk s = true → ∃ k t u,
    exec .kpRead s = .next t ∧ t.result = .key k ∧
    (k = 0xFF#8 → u = t) ∧ (k ≠ 0xFF#8 → exec (.kpInsert k) t = .next u) ∧
    exec .kpCapture s = .next { u with result := s.result }

/-- `KP_FRONT` (`spec/42_keypad.md` R146): 0xFF from an empty ring, else the entry at `kbegin`, which is removed. -/
def Obligations.FrontTakesTheOldest : Prop :=
  ∀ s : State, ringOk s = true → s.kbuf.length = s.params.keyBufCap → RoomInGuard s →
    (s.ksize = 0 → exec .kpFront s = .next { s with gie := decide (s.csDepth = 0), result := .key 0xFF#8 }) ∧
    (s.ksize ≠ 0 → ∃ k, s.kbuf[s.kbegin]? = some k ∧
      exec .kpFront s = .next { s with
        gie := decide (s.csDepth = 0), kbegin := (s.kbegin + 1) % s.params.keyBufCap, ksize := s.ksize - 1
        result := .key k })

/-- `KP_FINAL` answers the newest entry, 0xFF if there is none, and empties the ring (`spec/42_keypad.md` R147); `KP_CLEAR`
empties it (R148). The empty case and the index values are D22 (log entry 18). Neither touches the debounce run. -/
def Obligations.FinalAndClearEmptyTheRing : Prop :=
  ∀ s : State, ringOk s = true → s.kbuf.length = s.params.keyBufCap → RoomInGuard s →
    (s.ksize = 0 → exec .kpFinal s = .next { s with gie := decide (s.csDepth = 0), result := .key 0xFF#8 }) ∧
    (s.ksize ≠ 0 → ∃ k, s.kbuf[(s.kend + s.params.keyBufCap - 1) % s.params.keyBufCap]? = some k ∧
      exec .kpFinal s = .next { s with
        gie := decide (s.csDepth = 0), kbegin := s.kend, ksize := 0, result := .key k }) ∧
    exec .kpClear s = .next { s with gie := decide (s.csDepth = 0), kbegin := 0, kend := 0, ksize := 0 }

/-! ## Guard, tick, reset -/

/-- `CS_BEGIN` disables interrupts and counts, up to the depth 255, where it is `Fault(CsDepthOverflow)`
(`spec/43_critical_section.md` R160; the bound is D28, log entry 23). -/
def Obligations.CsBeginDisablesAndCounts : Prop :=
  ∀ s : State,
    (s.csDepth < 255 → exec .csBegin s = .next { s with gie := false, csDepth := s.csDepth + 1 }) ∧
    (255 ≤ s.csDepth → exec .csBegin s = .fault .csDepthOverflow)

/-- `CS_END` (`spec/43_critical_section.md` R161): it counts down, enables interrupts at the outermost end whatever `gie`
was, leaves `gie` at an inner end, and is `Fault(CsDepthUnderflow)` at depth 0. -/
def Obligations.CsEndCountsDownAndEnables : Prop :=
  ∀ s : State,
    (s.csDepth = 0 → exec .csEnd s = .fault .csDepthUnderflow) ∧
    (s.csDepth = 1 → exec .csEnd s = .next { s with csDepth := 0, gie := true }) ∧
    (2 ≤ s.csDepth → exec .csEnd s = .next { s with csDepth := s.csDepth - 1 })

/-- `TICK` is `KP_CAPTURE`, then the divider: on every `TIMER_EVENT_DIV`-th tick it goes back to 0 and TIMER is raised
(`spec/44_timer_tick.md` R170; D2, D24, log entries 3, 19). -/
def Obligations.TickCapturesAndDivides : Prop :=
  ∀ s : State, ringOk s = true → RoomInGuard s → ∃ u,
    exec .kpCapture s = .next u ∧
    (s.tickCount + 1 ≠ s.params.timerEventDiv → exec .tick s = .next { u with tickCount := s.tickCount + 1 }) ∧
    (s.tickCount + 1 = s.params.timerEventDiv →
      exec .tick s = .next { u with
        tickCount := 0, evMask := u.evMask ||| EventFlag.timer.mask, status := .processing, gie := decide (s.csDepth = 0) })

/-- `RESET` gives every piece of state of the block its reset value and keeps the build's parameters, the inputs and the
record of LCD calls; at the reset state it changes nothing (`spec/10_state.md` R33, `spec/70_reset_and_hazards.md` R211:
decisions D13, D14, D17, D18, log entry 12; what is kept: log entry 33). -/
def Obligations.ResetGivesTheResetState : Prop :=
  (∀ s : State, ∃ t, exec .reset s = .next t ∧
    t.status = .normal ∧ memRead t 0x01 = some 0xFF#8 ∧ memRead t 0x02 = some 0x00#8 ∧ memRead t 0x03 = some 0x20#8 ∧
    (∀ a, 0x04 ≤ a → a ≤ 0xA6 → memRead t a = some 0x00#8) ∧
    t.mapAddr = 0x00#8 ∧ t.writeStart = false ∧ t.evMask = 0#8 ∧ t.csDepth = 0 ∧ t.gie = false ∧ t.inIsr = false ∧
    t.irqI2C = false ∧ t.irqTimer = false ∧ t.lastKey = 0xFF#8 ∧ t.checkCount = 0 ∧
    t.kbegin = 0 ∧ t.kend = 0 ∧ t.ksize = 0 ∧ t.tickCount = 0 ∧ t.boot = .kpInit ∧ t.mainOps = [] ∧
    t.params = s.params ∧ t.keys = s.keys ∧ t.bus = s.bus ∧ t.turns = s.turns ∧ t.lcd = s.lcd) ∧
  exec .reset State.reset = .next State.reset
end

