-- ==== Sys2Proof/Laws/Decode.lean ====
section
/-! SUPPORT. What the decoder can answer, said once, region by region. -/

namespace Sys2Proof

/-- The operation of a data write, by the region of the cursor (`spec/30_encoding.md` R65). -/
theorem decodeWrite_cases {P : Instr → Prop} (a : Nat) (b : Byte)
    (h0 : a = 0x00 → P (.wrStatus b)) (h1 : a = 0x01 → P (.wrKey b)) (h2 : a = 0x02 → P (.wrPower b))
    (h3 : a = 0x03 → P (.wrContrast b)) (h4 : a = 0x04 → P (.wrCursortype b)) (h5 : a = 0x05 → P (.wrCursorrow b))
    (h6 : a = 0x06 → P (.wrCursorcol b)) (hd : ∀ i : Fin 80, a = 0x07 + i.val → P (.wrDisplay i b))
    (hc : ∀ i : Fin 64, a = 0x57 + i.val → P (.wrCgram i b)) (hi : ∀ i : Fin 16, a = 0x97 + i.val → P (.wrIcon i b))
    (ho : 0xA7 ≤ a → P (.wrOor b)) : P (decodeWrite a b) := by
  unfold decodeWrite
  split
  · exact h0 ‹_›
  split
  · exact h1 ‹_›
  split
  · exact h2 ‹_›
  split
  · exact h3 ‹_›
  split
  · exact h4 ‹_›
  split
  · exact h5 ‹_›
  split
  · exact h6 ‹_›
  split
  · exact hd _ (by simp only; omega)
  split
  · exact hc _ (by simp only; omega)
  split
  · exact hi _ (by simp only; omega)
  · exact ho (by omega)

/-- The operation of a read, by the region of the cursor (R65). -/
theorem decodeRead_cases {P : Instr → Prop} (k : ReadEvent) (a : Nat)
    (h0 : a = 0x00 → P (.rdStatus k)) (h1 : a = 0x01 → P (.rdKey k)) (h2 : a = 0x02 → P (.rdPower k))
    (h3 : a = 0x03 → P (.rdContrast k)) (h4 : a = 0x04 → P (.rdCursortype k)) (h5 : a = 0x05 → P (.rdCursorrow k))
    (h6 : a = 0x06 → P (.rdCursorcol k)) (hd : ∀ i : Fin 80, a = 0x07 + i.val → P (.rdDisplay k i))
    (hc : ∀ i : Fin 64, a = 0x57 + i.val → P (.rdCgram k i)) (hi : ∀ i : Fin 16, a = 0x97 + i.val → P (.rdIcon k i))
    (ho : 0xA7 ≤ a → P (.rdOor k)) : P (decodeRead k a) := by
  unfold decodeRead
  split
  · exact h0 ‹_›
  split
  · exact h1 ‹_›
  split
  · exact h2 ‹_›
  split
  · exact h3 ‹_›
  split
  · exact h4 ‹_›
  split
  · exact h5 ‹_›
  split
  · exact h6 ‹_›
  split
  · exact hd _ (by simp only; omega)
  split
  · exact hc _ (by simp only; omega)
  split
  · exact hi _ (by simp only; omega)
  · exact ho (by omega)

/-- The operation of an address byte (R65, R82, R83). -/
theorem decodeAddress_cases {P : Instr → Prop} (b : Byte) (hs : b.toNat < 0xA7 → P (.sSetaddr b))
    (ho : 0xA7 ≤ b.toNat → P (.sSetaddrOor b)) : P (decodeAddress b) := by
  unfold decodeAddress
  by_cases h : b.toNat < Config.mapSize
  · rw [if_pos h]; exact hs h
  · rw [if_neg h]; exact ho (Nat.le_of_not_lt h)

/-- The operation of an event, by its kind (R63, R64, R65). -/
theorem decodeEvent_cases {P : Instr → Prop} {kind : Nat} {w : Bool} {a : Nat} {d : Option Byte} {i : Instr}
    (h : decodeEvent kind w a d = .ok i) (h0 : kind = 0 → d = none → P .sWaddr)
    (h1 : ∀ b, kind = 1 → d = some b → w = true → P (decodeAddress b))
    (h2 : ∀ b, kind = 1 → d = some b → w = false → P (decodeWrite a b))
    (h3 : kind = 2 → d = none → P (decodeRead .addr a)) (h4 : kind = 3 → d = none → P (decodeRead .ack a))
    (h5 : kind = 4 → d = none → P .sRnack) (h6 : kind = 5 → d = none → P .sBuserr) : P i := by
  unfold decodeEvent at h
  split at h
  all_goals first | (injection h with h; subst h) | cases h
  · exact h0 rfl rfl
  · cases w
    · exact h2 _ rfl rfl rfl
    · exact h1 _ rfl rfl rfl
  · exact h3 rfl rfl
  · exact h4 rfl rfl
  · exact h5 rfl rfl
  · exact h6 rfl rfl

/-- What the decoder answers comes from one selector and its data byte. -/
theorem decode_ok {ws : List Byte} {i : Instr} (h : decode ws = .ok i) :
    ∃ (lo hi : Byte) (d : Option Byte), ws = [lo, hi] ++ d.toList ∧ hi.toNat < 16 ∧
      decodeEvent (hi.toNat / 2) (hi.getLsbD 0) lo.toNat d = .ok i := by
  unfold decode at h
  split at h
  · next lo hi =>
    unfold decodeSelector at h
    split at h
    · exact ⟨lo, hi, none, rfl, ‹_›, h⟩
    · cases h
  · next lo hi b =>
    unfold decodeSelector at h
    split at h
    · exact ⟨lo, hi, some b, rfl, ‹_›, h⟩
    · cases h
  · cases h

end Sys2Proof
end

