-- ==== Sys2Proof/Laws/Memory.lean ====
section
/-! SUPPORT. The laws of the register map's memory: read after write, the fill, and the canonical form. -/

namespace Sys2Proof.Machine

theorem Memory.read_erase (m : Memory) (a b : Nat) :
    (m.erase a).read b = if b = a then Memory.unlisted a else m.read b := by
  induction m with
  | nil => simp only [Memory.erase, Memory.read]; split <;> simp_all
  | cons c m ih =>
    obtain ⟨k, x⟩ := c
    by_cases hk : k = a
    · simp only [Memory.erase, hk, if_true, ih, Memory.read]
      split <;> rfl
    · simp only [Memory.erase, hk, if_false, Memory.read, ih]
      split_ifs <;> simp_all

/-- No entry for the address. -/
def Memory.Absent (m : Memory) (a : Nat) : Prop := ∀ c ∈ m, c.1 ≠ a

theorem Memory.absent_erase (m : Memory) (a : Nat) : (m.erase a).Absent a := by
  induction m with
  | nil => simp [Memory.erase, Memory.Absent]
  | cons c m ih =>
    obtain ⟨k, x⟩ := c
    by_cases hk : k = a
    · simpa [Memory.erase, hk] using ih
    · simpa [Memory.erase, hk, Memory.Absent] using ih

theorem Memory.read_insert (m : Memory) (a b : Nat) (v : Byte) (h : m.Absent a) :
    (m.insert a v).read b = if b = a then v else m.read b := by
  induction m with
  | nil => simp [Memory.insert, Memory.read]
  | cons c m ih =>
    obtain ⟨k, x⟩ := c
    have hk : k ≠ a := h (k, x) (by simp)
    have hm : Memory.Absent m a := fun c hc => h c (by simp [hc])
    simp only [Memory.insert]
    split
    · simp only [Memory.read]
    · simp only [Memory.read, ih hm]
      split_ifs <;> simp_all

/-- Read after write: the written address reads as written, every other as before. -/
@[simp] theorem Memory.read_write (m : Memory) (a b : Nat) (v : Byte) :
    (m.write a v).read b = if b = a then v else m.read b := by
  unfold Memory.write
  split
  · next h => rw [Memory.read_erase, h]
  · rw [Memory.read_insert _ _ _ _ (Memory.absent_erase m a), Memory.read_erase]
    split <;> rfl

/-- The fill writes its addresses and no other. -/
@[simp] theorem Memory.read_fill (m : Memory) (a n b : Nat) (v : Byte) :
    (m.fill a n v).read b = if a ≤ b ∧ b < a + n then v else m.read b := by
  induction n with
  | zero =>
    simp only [Memory.fill]
    rw [if_neg (by omega)]
  | succ n ih =>
    simp only [Memory.fill, Memory.read_write, ih]
    split_ifs <;> first | rfl | omega

theorem Memory.wfAbove_mono {lo lo' : Nat} {m : Memory} (h : lo' ≤ lo) (hm : Memory.wfAbove lo m = true) :
    Memory.wfAbove lo' m = true := by
  cases m with
  | nil => rfl
  | cons c m =>
    simp only [Memory.wfAbove, Bool.and_eq_true, decide_eq_true_eq] at hm ⊢
    exact ⟨⟨⟨by omega, hm.1.1.2⟩, hm.1.2⟩, hm.2⟩

theorem Memory.wfAbove_erase {lo : Nat} {m : Memory} (a : Nat) (hm : Memory.wfAbove lo m = true) :
    Memory.wfAbove lo (m.erase a) = true := by
  induction m generalizing lo with
  | nil => rfl
  | cons c m ih =>
    obtain ⟨k, x⟩ := c
    simp only [Memory.wfAbove, Bool.and_eq_true, decide_eq_true_eq] at hm
    by_cases hk : k = a
    · simp only [Memory.erase, hk, if_true]
      exact Memory.wfAbove_mono (by omega) (ih hm.2)
    · simp only [Memory.erase, hk, if_false, Memory.wfAbove, Bool.and_eq_true, decide_eq_true_eq]
      exact ⟨hm.1, ih hm.2⟩

theorem Memory.wfAbove_insert {lo : Nat} {m : Memory} {a : Nat} {v : Byte} (hm : Memory.wfAbove lo m = true)
    (habs : m.Absent a) (hlo : lo < a) (ha : a < Config.mapSize) (hv : v ≠ Memory.unlisted a) :
    Memory.wfAbove lo (m.insert a v) = true := by
  induction m generalizing lo with
  | nil => simp [Memory.insert, Memory.wfAbove, hlo, ha, hv]
  | cons c m ih =>
    obtain ⟨k, x⟩ := c
    have hk : k ≠ a := habs (k, x) (by simp)
    have hrest : Memory.Absent m a := fun c hc => habs c (by simp [hc])
    simp only [Memory.wfAbove, Bool.and_eq_true, decide_eq_true_eq] at hm
    simp only [Memory.insert]
    split
    · next hak =>
      simp only [Memory.wfAbove, Bool.and_eq_true, decide_eq_true_eq]
      exact ⟨⟨⟨hlo, ha⟩, hv⟩, ⟨⟨hak, hm.1.1.2⟩, hm.1.2⟩, hm.2⟩
    · simp only [Memory.wfAbove, Bool.and_eq_true, decide_eq_true_eq]
      exact ⟨hm.1, ih hm.2 hrest (by omega)⟩

/-- A store inside the map keeps the canonical form. -/
theorem Memory.wf_write {m : Memory} {a : Nat} (v : Byte) (hm : m.wf = true) (h0 : 0 < a) (ha : a < Config.mapSize) :
    (m.write a v).wf = true := by
  unfold Memory.write
  split
  · exact Memory.wfAbove_erase a hm
  · next hv => exact Memory.wfAbove_insert (Memory.wfAbove_erase a hm) (Memory.absent_erase m a) h0 ha hv

/-- A fill inside the map keeps the canonical form. -/
theorem Memory.wf_fill {m : Memory} {a n : Nat} (v : Byte) (hm : m.wf = true) (h0 : 0 < a)
    (ha : a + n ≤ Config.mapSize) : (m.fill a n v).wf = true := by
  induction n with
  | zero => exact hm
  | succ n ih => exact Memory.wf_write v (ih (by omega)) (by omega) (by omega)

theorem Memory.read_of_wfAbove {lo : Nat} {m : Memory} (hm : Memory.wfAbove lo m = true) {a : Nat} (ha : a ≤ lo) :
    m.read a = Memory.unlisted a := by
  induction m generalizing lo with
  | nil => rfl
  | cons c m ih =>
    obtain ⟨k, x⟩ := c
    simp only [Memory.wfAbove, Bool.and_eq_true, decide_eq_true_eq] at hm
    simp only [Memory.read]
    rw [if_neg (by omega)]
    exact ih hm.2 (by omega)

/-- Two memories in canonical form that read alike are the same list. -/
theorem Memory.eq_of_read_eq {lo lo' : Nat} {m n : Memory} (hm : Memory.wfAbove lo m = true)
    (hn : Memory.wfAbove lo' n = true) (h : ∀ a, m.read a = n.read a) : m = n := by
  induction m generalizing lo lo' n with
  | nil =>
    cases n with
    | nil => rfl
    | cons c n =>
      obtain ⟨k, x⟩ := c
      simp only [Memory.wfAbove, Bool.and_eq_true, decide_eq_true_eq] at hn
      exact absurd (by simpa [Memory.read] using (h k).symm) hn.1.2
  | cons c m ih =>
    obtain ⟨k, x⟩ := c
    simp only [Memory.wfAbove, Bool.and_eq_true, decide_eq_true_eq] at hm
    cases n with
    | nil => exact absurd (by simpa [Memory.read] using h k) hm.1.2
    | cons d n =>
      obtain ⟨j, y⟩ := d
      simp only [Memory.wfAbove, Bool.and_eq_true, decide_eq_true_eq] at hn
      have hkj : k = j := by
        rcases Nat.lt_trichotomy k j with hlt | heq | hgt
        · have := h k
          simp only [Memory.read, if_true] at this
          rw [if_neg (by omega), Memory.read_of_wfAbove hn.2 (by omega)] at this
          exact absurd this hm.1.2
        · exact heq
        · have := h j
          simp only [Memory.read, if_true] at this
          rw [if_neg (by omega), Memory.read_of_wfAbove hm.2 (by omega)] at this
          exact absurd this.symm hn.1.2
      subst hkj
      have hxy : x = y := by simpa [Memory.read] using h k
      subst hxy
      have hmn : m = n := ih hm.2 hn.2 (fun a => by
        rcases Nat.lt_or_ge k a with hka | hka
        · have := h a
          simp only [Memory.read] at this
          rwa [if_neg (by omega), if_neg (by omega)] at this
        · rw [Memory.read_of_wfAbove hm.2 hka, Memory.read_of_wfAbove hn.2 hka])
      rw [hmn]

/-- Equal memories are equal data. -/
theorem Memory.ext_of_wf {m n : Memory} (hm : m.wf = true) (hn : n.wf = true) (h : ∀ a, m.read a = n.read a) : m = n :=
  Memory.eq_of_read_eq hm hn h

/-- The reset memory has the canonical form. -/
theorem reset_mem_wf : State.reset.mem.wf = true := rfl

/-- Every field lies in the map, past `status`. -/
theorem Field.addr_pos (f : Field) : 0 < f.addr := by cases f <;> simp [Field.addr]

theorem Field.addr_lt (f : Field) : f.addr < Config.mapSize := by
  cases f <;> simp only [Field.addr, Config.mapSize] <;> omega

/-- No two fields share an address (`spec/10_state.md` R10: no aliases). -/
theorem Field.addr_inj (f g : Field) : f.addr = g.addr ↔ f = g := by
  constructor
  · intro h
    cases f <;> cases g <;>
      simp only [Field.addr, reduceCtorEq, Field.display.injEq, Field.cgram.injEq, Field.icon.injEq, Fin.ext_iff] at h ⊢ <;>
      omega
  · rintro rfl; rfl

@[simp] theorem field_setField (s : State) (f g : Field) (v : Byte) :
    (s.setField f v).field g = if g = f then v else s.field g := by
  simp only [State.field, State.setField, Memory.read_write, Field.addr_inj]

/-- The raw primitive at a field's address reads the field. -/
theorem memRead_field (s : State) (f : Field) : memRead s f.addr = some (s.field f) := by
  unfold memRead
  rw [if_neg (by have := f.addr_pos; omega), if_pos f.addr_lt]
  rfl

/-- The stores of the power-off reset, written out. `Memory.powerOff` is irreducible, since unfolding its 164 stores is
never wanted; this lemma is how a proof looks into it. -/
theorem Memory.powerOff_eq (m : Memory) : m.powerOff =
    ((((((m.write 0x03 Config.contrastDefault).write 0x04 Config.cursorTypeDefault).write 0x05
      Config.cursorRowDefault).write 0x06 Config.cursorColDefault).fill 0x07 80 0x00#8).fill 0x57 64
      Config.cgramBlank).fill 0x97 16 0x00#8 := by
  delta Memory.powerOff
  dsimp only [Field.addr]

/-- What the power-off reset stores where (`spec/40_slave_engine.md` R88). -/
theorem powerOffReset_read (s : State) (a : Nat) :
    (powerOffReset s).mem.read a =
      if 0x97 ≤ a ∧ a < 0xA7 then 0x00#8
      else if 0x57 ≤ a ∧ a < 0x97 then Config.cgramBlank
      else if 0x07 ≤ a ∧ a < 0x57 then 0x00#8
      else if a = 0x06 then Config.cursorColDefault
      else if a = 0x05 then Config.cursorRowDefault
      else if a = 0x04 then Config.cursorTypeDefault
      else if a = 0x03 then Config.contrastDefault
      else s.mem.read a := by
  simp only [powerOffReset, Memory.powerOff_eq, Memory.read_fill, Memory.read_write]

theorem powerOffReset_wf {s : State} (h : s.mem.wf = true) : (powerOffReset s).mem.wf = true := by
  simp only [powerOffReset, Memory.powerOff_eq]
  refine Memory.wf_fill _ (Memory.wf_fill _ (Memory.wf_fill _ ?_ ?_ ?_) ?_ ?_) ?_ ?_
  · refine Memory.wf_write _ (Memory.wf_write _ (Memory.wf_write _ (Memory.wf_write _ h ?_ ?_) ?_ ?_) ?_ ?_) ?_ ?_ <;>
      decide
  all_goals decide

end Sys2Proof.Machine
end

