-- ==== Sys2Proof/Laws/State.lean ====
section
/-! SUPPORT. What each named update of the state leaves in each field, so that no proof unfolds a record update. -/

namespace Sys2Proof.Machine

/-! ## `setField` -/

@[simp] theorem setField_params (s : State) (f : Field) (v : Byte) : (s.setField f v).params = s.params := rfl
@[simp] theorem setField_status (s : State) (f : Field) (v : Byte) : (s.setField f v).status = s.status := rfl
@[simp] theorem setField_mem (s : State) (f : Field) (v : Byte) : (s.setField f v).mem = s.mem.write f.addr v := rfl
@[simp] theorem setField_mapAddr (s : State) (f : Field) (v : Byte) : (s.setField f v).mapAddr = s.mapAddr := rfl
@[simp] theorem setField_writeStart (s : State) (f : Field) (v : Byte) : (s.setField f v).writeStart = s.writeStart := rfl
@[simp] theorem setField_nack (s : State) (f : Field) (v : Byte) : (s.setField f v).nack = s.nack := rfl
@[simp] theorem setField_tx (s : State) (f : Field) (v : Byte) : (s.setField f v).tx = s.tx := rfl
@[simp] theorem setField_evMask (s : State) (f : Field) (v : Byte) : (s.setField f v).evMask = s.evMask := rfl
@[simp] theorem setField_csDepth (s : State) (f : Field) (v : Byte) : (s.setField f v).csDepth = s.csDepth := rfl
@[simp] theorem setField_gie (s : State) (f : Field) (v : Byte) : (s.setField f v).gie = s.gie := rfl
@[simp] theorem setField_inIsr (s : State) (f : Field) (v : Byte) : (s.setField f v).inIsr = s.inIsr := rfl
@[simp] theorem setField_irqI2C (s : State) (f : Field) (v : Byte) : (s.setField f v).irqI2C = s.irqI2C := rfl
@[simp] theorem setField_irqTimer (s : State) (f : Field) (v : Byte) : (s.setField f v).irqTimer = s.irqTimer := rfl
@[simp] theorem setField_i2cEvent (s : State) (f : Field) (v : Byte) : (s.setField f v).i2cEvent = s.i2cEvent := rfl
@[simp] theorem setField_kpCfg (s : State) (f : Field) (v : Byte) : (s.setField f v).kpCfg = s.kpCfg := rfl
@[simp] theorem setField_lastKey (s : State) (f : Field) (v : Byte) : (s.setField f v).lastKey = s.lastKey := rfl
@[simp] theorem setField_checkCount (s : State) (f : Field) (v : Byte) : (s.setField f v).checkCount = s.checkCount := rfl
@[simp] theorem setField_kbuf (s : State) (f : Field) (v : Byte) : (s.setField f v).kbuf = s.kbuf := rfl
@[simp] theorem setField_kbegin (s : State) (f : Field) (v : Byte) : (s.setField f v).kbegin = s.kbegin := rfl
@[simp] theorem setField_kend (s : State) (f : Field) (v : Byte) : (s.setField f v).kend = s.kend := rfl
@[simp] theorem setField_ksize (s : State) (f : Field) (v : Byte) : (s.setField f v).ksize = s.ksize := rfl
@[simp] theorem setField_tickCount (s : State) (f : Field) (v : Byte) : (s.setField f v).tickCount = s.tickCount := rfl
@[simp] theorem setField_boot (s : State) (f : Field) (v : Byte) : (s.setField f v).boot = s.boot := rfl
@[simp] theorem setField_mainOps (s : State) (f : Field) (v : Byte) : (s.setField f v).mainOps = s.mainOps := rfl
@[simp] theorem setField_result (s : State) (f : Field) (v : Byte) : (s.setField f v).result = s.result := rfl
@[simp] theorem setField_panelPin (s : State) (f : Field) (v : Byte) : (s.setField f v).panelPin = s.panelPin := rfl
@[simp] theorem setField_backlightPin (s : State) (f : Field) (v : Byte) : (s.setField f v).backlightPin = s.backlightPin := rfl
@[simp] theorem setField_lcd (s : State) (f : Field) (v : Byte) : (s.setField f v).lcd = s.lcd := rfl
@[simp] theorem setField_keys (s : State) (f : Field) (v : Byte) : (s.setField f v).keys = s.keys := rfl
@[simp] theorem setField_bus (s : State) (f : Field) (v : Byte) : (s.setField f v).bus = s.bus := rfl
@[simp] theorem setField_turns (s : State) (f : Field) (v : Byte) : (s.setField f v).turns = s.turns := rfl
@[simp] theorem setField_arbCount (s : State) (f : Field) (v : Byte) : (s.setField f v).arbCount = s.arbCount := rfl

/-! ## `raiseFlag` -/

@[simp] theorem raiseFlag_params (s : State) (f : EventFlag) : (s.raiseFlag f).params = s.params := rfl
@[simp] theorem raiseFlag_status (s : State) (f : EventFlag) : (s.raiseFlag f).status = .processing := rfl
@[simp] theorem raiseFlag_mem (s : State) (f : EventFlag) : (s.raiseFlag f).mem = s.mem := rfl
@[simp] theorem raiseFlag_mapAddr (s : State) (f : EventFlag) : (s.raiseFlag f).mapAddr = s.mapAddr := rfl
@[simp] theorem raiseFlag_writeStart (s : State) (f : EventFlag) : (s.raiseFlag f).writeStart = s.writeStart := rfl
@[simp] theorem raiseFlag_nack (s : State) (f : EventFlag) : (s.raiseFlag f).nack = s.nack := rfl
@[simp] theorem raiseFlag_tx (s : State) (f : EventFlag) : (s.raiseFlag f).tx = s.tx := rfl
@[simp] theorem raiseFlag_evMask (s : State) (f : EventFlag) : (s.raiseFlag f).evMask = s.evMask ||| f.mask := rfl
@[simp] theorem raiseFlag_csDepth (s : State) (f : EventFlag) : (s.raiseFlag f).csDepth = s.csDepth := rfl
@[simp] theorem raiseFlag_gie (s : State) (f : EventFlag) : (s.raiseFlag f).gie = s.gie := rfl
@[simp] theorem raiseFlag_inIsr (s : State) (f : EventFlag) : (s.raiseFlag f).inIsr = s.inIsr := rfl
@[simp] theorem raiseFlag_irqI2C (s : State) (f : EventFlag) : (s.raiseFlag f).irqI2C = s.irqI2C := rfl
@[simp] theorem raiseFlag_irqTimer (s : State) (f : EventFlag) : (s.raiseFlag f).irqTimer = s.irqTimer := rfl
@[simp] theorem raiseFlag_i2cEvent (s : State) (f : EventFlag) : (s.raiseFlag f).i2cEvent = s.i2cEvent := rfl
@[simp] theorem raiseFlag_kpCfg (s : State) (f : EventFlag) : (s.raiseFlag f).kpCfg = s.kpCfg := rfl
@[simp] theorem raiseFlag_lastKey (s : State) (f : EventFlag) : (s.raiseFlag f).lastKey = s.lastKey := rfl
@[simp] theorem raiseFlag_checkCount (s : State) (f : EventFlag) : (s.raiseFlag f).checkCount = s.checkCount := rfl
@[simp] theorem raiseFlag_kbuf (s : State) (f : EventFlag) : (s.raiseFlag f).kbuf = s.kbuf := rfl
@[simp] theorem raiseFlag_kbegin (s : State) (f : EventFlag) : (s.raiseFlag f).kbegin = s.kbegin := rfl
@[simp] theorem raiseFlag_kend (s : State) (f : EventFlag) : (s.raiseFlag f).kend = s.kend := rfl
@[simp] theorem raiseFlag_ksize (s : State) (f : EventFlag) : (s.raiseFlag f).ksize = s.ksize := rfl
@[simp] theorem raiseFlag_tickCount (s : State) (f : EventFlag) : (s.raiseFlag f).tickCount = s.tickCount := rfl
@[simp] theorem raiseFlag_boot (s : State) (f : EventFlag) : (s.raiseFlag f).boot = s.boot := rfl
@[simp] theorem raiseFlag_mainOps (s : State) (f : EventFlag) : (s.raiseFlag f).mainOps = s.mainOps := rfl
@[simp] theorem raiseFlag_result (s : State) (f : EventFlag) : (s.raiseFlag f).result = s.result := rfl
@[simp] theorem raiseFlag_panelPin (s : State) (f : EventFlag) : (s.raiseFlag f).panelPin = s.panelPin := rfl
@[simp] theorem raiseFlag_backlightPin (s : State) (f : EventFlag) : (s.raiseFlag f).backlightPin = s.backlightPin := rfl
@[simp] theorem raiseFlag_lcd (s : State) (f : EventFlag) : (s.raiseFlag f).lcd = s.lcd := rfl
@[simp] theorem raiseFlag_keys (s : State) (f : EventFlag) : (s.raiseFlag f).keys = s.keys := rfl
@[simp] theorem raiseFlag_bus (s : State) (f : EventFlag) : (s.raiseFlag f).bus = s.bus := rfl
@[simp] theorem raiseFlag_turns (s : State) (f : EventFlag) : (s.raiseFlag f).turns = s.turns := rfl
@[simp] theorem raiseFlag_arbCount (s : State) (f : EventFlag) : (s.raiseFlag f).arbCount = s.arbCount := rfl

/-! ## `drainFlags` -/

@[simp] theorem drainFlags_params (s : State) : (s.drainFlags).params = s.params := rfl
@[simp] theorem drainFlags_status (s : State) : (s.drainFlags).status = if s.evMask = 0#8 then .normal else .processing := rfl
@[simp] theorem drainFlags_mem (s : State) : (s.drainFlags).mem = s.mem := rfl
@[simp] theorem drainFlags_mapAddr (s : State) : (s.drainFlags).mapAddr = s.mapAddr := rfl
@[simp] theorem drainFlags_writeStart (s : State) : (s.drainFlags).writeStart = s.writeStart := rfl
@[simp] theorem drainFlags_nack (s : State) : (s.drainFlags).nack = s.nack := rfl
@[simp] theorem drainFlags_tx (s : State) : (s.drainFlags).tx = s.tx := rfl
@[simp] theorem drainFlags_evMask (s : State) : (s.drainFlags).evMask = 0#8 := rfl
@[simp] theorem drainFlags_csDepth (s : State) : (s.drainFlags).csDepth = s.csDepth := rfl
@[simp] theorem drainFlags_gie (s : State) : (s.drainFlags).gie = s.gie := rfl
@[simp] theorem drainFlags_inIsr (s : State) : (s.drainFlags).inIsr = s.inIsr := rfl
@[simp] theorem drainFlags_irqI2C (s : State) : (s.drainFlags).irqI2C = s.irqI2C := rfl
@[simp] theorem drainFlags_irqTimer (s : State) : (s.drainFlags).irqTimer = s.irqTimer := rfl
@[simp] theorem drainFlags_i2cEvent (s : State) : (s.drainFlags).i2cEvent = s.i2cEvent := rfl
@[simp] theorem drainFlags_kpCfg (s : State) : (s.drainFlags).kpCfg = s.kpCfg := rfl
@[simp] theorem drainFlags_lastKey (s : State) : (s.drainFlags).lastKey = s.lastKey := rfl
@[simp] theorem drainFlags_checkCount (s : State) : (s.drainFlags).checkCount = s.checkCount := rfl
@[simp] theorem drainFlags_kbuf (s : State) : (s.drainFlags).kbuf = s.kbuf := rfl
@[simp] theorem drainFlags_kbegin (s : State) : (s.drainFlags).kbegin = s.kbegin := rfl
@[simp] theorem drainFlags_kend (s : State) : (s.drainFlags).kend = s.kend := rfl
@[simp] theorem drainFlags_ksize (s : State) : (s.drainFlags).ksize = s.ksize := rfl
@[simp] theorem drainFlags_tickCount (s : State) : (s.drainFlags).tickCount = s.tickCount := rfl
@[simp] theorem drainFlags_boot (s : State) : (s.drainFlags).boot = s.boot := rfl
@[simp] theorem drainFlags_mainOps (s : State) : (s.drainFlags).mainOps = s.mainOps := rfl
@[simp] theorem drainFlags_result (s : State) : (s.drainFlags).result = s.result := rfl
@[simp] theorem drainFlags_panelPin (s : State) : (s.drainFlags).panelPin = s.panelPin := rfl
@[simp] theorem drainFlags_backlightPin (s : State) : (s.drainFlags).backlightPin = s.backlightPin := rfl
@[simp] theorem drainFlags_lcd (s : State) : (s.drainFlags).lcd = s.lcd := rfl
@[simp] theorem drainFlags_keys (s : State) : (s.drainFlags).keys = s.keys := rfl
@[simp] theorem drainFlags_bus (s : State) : (s.drainFlags).bus = s.bus := rfl
@[simp] theorem drainFlags_turns (s : State) : (s.drainFlags).turns = s.turns := rfl
@[simp] theorem drainFlags_arbCount (s : State) : (s.drainFlags).arbCount = s.arbCount := rfl

/-! ## `beginEvent` -/

@[simp] theorem beginEvent_params (s : State) : (s.beginEvent).params = s.params := rfl
@[simp] theorem beginEvent_status (s : State) : (s.beginEvent).status = s.status := rfl
@[simp] theorem beginEvent_mem (s : State) : (s.beginEvent).mem = s.mem := rfl
@[simp] theorem beginEvent_mapAddr (s : State) : (s.beginEvent).mapAddr = s.mapAddr := rfl
@[simp] theorem beginEvent_writeStart (s : State) : (s.beginEvent).writeStart = s.writeStart := rfl
@[simp] theorem beginEvent_nack (s : State) : (s.beginEvent).nack = false := rfl
@[simp] theorem beginEvent_tx (s : State) : (s.beginEvent).tx = none := rfl
@[simp] theorem beginEvent_evMask (s : State) : (s.beginEvent).evMask = s.evMask := rfl
@[simp] theorem beginEvent_csDepth (s : State) : (s.beginEvent).csDepth = s.csDepth := rfl
@[simp] theorem beginEvent_gie (s : State) : (s.beginEvent).gie = s.gie := rfl
@[simp] theorem beginEvent_inIsr (s : State) : (s.beginEvent).inIsr = s.inIsr := rfl
@[simp] theorem beginEvent_irqI2C (s : State) : (s.beginEvent).irqI2C = s.irqI2C := rfl
@[simp] theorem beginEvent_irqTimer (s : State) : (s.beginEvent).irqTimer = s.irqTimer := rfl
@[simp] theorem beginEvent_i2cEvent (s : State) : (s.beginEvent).i2cEvent = s.i2cEvent := rfl
@[simp] theorem beginEvent_kpCfg (s : State) : (s.beginEvent).kpCfg = s.kpCfg := rfl
@[simp] theorem beginEvent_lastKey (s : State) : (s.beginEvent).lastKey = s.lastKey := rfl
@[simp] theorem beginEvent_checkCount (s : State) : (s.beginEvent).checkCount = s.checkCount := rfl
@[simp] theorem beginEvent_kbuf (s : State) : (s.beginEvent).kbuf = s.kbuf := rfl
@[simp] theorem beginEvent_kbegin (s : State) : (s.beginEvent).kbegin = s.kbegin := rfl
@[simp] theorem beginEvent_kend (s : State) : (s.beginEvent).kend = s.kend := rfl
@[simp] theorem beginEvent_ksize (s : State) : (s.beginEvent).ksize = s.ksize := rfl
@[simp] theorem beginEvent_tickCount (s : State) : (s.beginEvent).tickCount = s.tickCount := rfl
@[simp] theorem beginEvent_boot (s : State) : (s.beginEvent).boot = s.boot := rfl
@[simp] theorem beginEvent_mainOps (s : State) : (s.beginEvent).mainOps = s.mainOps := rfl
@[simp] theorem beginEvent_result (s : State) : (s.beginEvent).result = s.result := rfl
@[simp] theorem beginEvent_panelPin (s : State) : (s.beginEvent).panelPin = s.panelPin := rfl
@[simp] theorem beginEvent_backlightPin (s : State) : (s.beginEvent).backlightPin = s.backlightPin := rfl
@[simp] theorem beginEvent_lcd (s : State) : (s.beginEvent).lcd = s.lcd := rfl
@[simp] theorem beginEvent_keys (s : State) : (s.beginEvent).keys = s.keys := rfl
@[simp] theorem beginEvent_bus (s : State) : (s.beginEvent).bus = s.bus := rfl
@[simp] theorem beginEvent_turns (s : State) : (s.beginEvent).turns = s.turns := rfl
@[simp] theorem beginEvent_arbCount (s : State) : (s.beginEvent).arbCount = s.arbCount := rfl

/-! ## `raiseNack` -/

@[simp] theorem raiseNack_params (s : State) : (s.raiseNack).params = s.params := rfl
@[simp] theorem raiseNack_status (s : State) : (s.raiseNack).status = s.status := rfl
@[simp] theorem raiseNack_mem (s : State) : (s.raiseNack).mem = s.mem := rfl
@[simp] theorem raiseNack_mapAddr (s : State) : (s.raiseNack).mapAddr = s.mapAddr := rfl
@[simp] theorem raiseNack_writeStart (s : State) : (s.raiseNack).writeStart = s.writeStart := rfl
@[simp] theorem raiseNack_nack (s : State) : (s.raiseNack).nack = true := rfl
@[simp] theorem raiseNack_tx (s : State) : (s.raiseNack).tx = s.tx := rfl
@[simp] theorem raiseNack_evMask (s : State) : (s.raiseNack).evMask = s.evMask := rfl
@[simp] theorem raiseNack_csDepth (s : State) : (s.raiseNack).csDepth = s.csDepth := rfl
@[simp] theorem raiseNack_gie (s : State) : (s.raiseNack).gie = s.gie := rfl
@[simp] theorem raiseNack_inIsr (s : State) : (s.raiseNack).inIsr = s.inIsr := rfl
@[simp] theorem raiseNack_irqI2C (s : State) : (s.raiseNack).irqI2C = s.irqI2C := rfl
@[simp] theorem raiseNack_irqTimer (s : State) : (s.raiseNack).irqTimer = s.irqTimer := rfl
@[simp] theorem raiseNack_i2cEvent (s : State) : (s.raiseNack).i2cEvent = s.i2cEvent := rfl
@[simp] theorem raiseNack_kpCfg (s : State) : (s.raiseNack).kpCfg = s.kpCfg := rfl
@[simp] theorem raiseNack_lastKey (s : State) : (s.raiseNack).lastKey = s.lastKey := rfl
@[simp] theorem raiseNack_checkCount (s : State) : (s.raiseNack).checkCount = s.checkCount := rfl
@[simp] theorem raiseNack_kbuf (s : State) : (s.raiseNack).kbuf = s.kbuf := rfl
@[simp] theorem raiseNack_kbegin (s : State) : (s.raiseNack).kbegin = s.kbegin := rfl
@[simp] theorem raiseNack_kend (s : State) : (s.raiseNack).kend = s.kend := rfl
@[simp] theorem raiseNack_ksize (s : State) : (s.raiseNack).ksize = s.ksize := rfl
@[simp] theorem raiseNack_tickCount (s : State) : (s.raiseNack).tickCount = s.tickCount := rfl
@[simp] theorem raiseNack_boot (s : State) : (s.raiseNack).boot = s.boot := rfl
@[simp] theorem raiseNack_mainOps (s : State) : (s.raiseNack).mainOps = s.mainOps := rfl
@[simp] theorem raiseNack_result (s : State) : (s.raiseNack).result = s.result := rfl
@[simp] theorem raiseNack_panelPin (s : State) : (s.raiseNack).panelPin = s.panelPin := rfl
@[simp] theorem raiseNack_backlightPin (s : State) : (s.raiseNack).backlightPin = s.backlightPin := rfl
@[simp] theorem raiseNack_lcd (s : State) : (s.raiseNack).lcd = s.lcd := rfl
@[simp] theorem raiseNack_keys (s : State) : (s.raiseNack).keys = s.keys := rfl
@[simp] theorem raiseNack_bus (s : State) : (s.raiseNack).bus = s.bus := rfl
@[simp] theorem raiseNack_turns (s : State) : (s.raiseNack).turns = s.turns := rfl
@[simp] theorem raiseNack_arbCount (s : State) : (s.raiseNack).arbCount = s.arbCount := rfl

/-! ## `advance` -/

@[simp] theorem advance_params (s : State) : (s.advance).params = s.params := rfl
@[simp] theorem advance_status (s : State) : (s.advance).status = s.status := rfl
@[simp] theorem advance_mem (s : State) : (s.advance).mem = s.mem := rfl
@[simp] theorem advance_mapAddr (s : State) : (s.advance).mapAddr = s.mapAddr + 1#8 := rfl
@[simp] theorem advance_writeStart (s : State) : (s.advance).writeStart = s.writeStart := rfl
@[simp] theorem advance_nack (s : State) : (s.advance).nack = s.nack := rfl
@[simp] theorem advance_tx (s : State) : (s.advance).tx = s.tx := rfl
@[simp] theorem advance_evMask (s : State) : (s.advance).evMask = s.evMask := rfl
@[simp] theorem advance_csDepth (s : State) : (s.advance).csDepth = s.csDepth := rfl
@[simp] theorem advance_gie (s : State) : (s.advance).gie = s.gie := rfl
@[simp] theorem advance_inIsr (s : State) : (s.advance).inIsr = s.inIsr := rfl
@[simp] theorem advance_irqI2C (s : State) : (s.advance).irqI2C = s.irqI2C := rfl
@[simp] theorem advance_irqTimer (s : State) : (s.advance).irqTimer = s.irqTimer := rfl
@[simp] theorem advance_i2cEvent (s : State) : (s.advance).i2cEvent = s.i2cEvent := rfl
@[simp] theorem advance_kpCfg (s : State) : (s.advance).kpCfg = s.kpCfg := rfl
@[simp] theorem advance_lastKey (s : State) : (s.advance).lastKey = s.lastKey := rfl
@[simp] theorem advance_checkCount (s : State) : (s.advance).checkCount = s.checkCount := rfl
@[simp] theorem advance_kbuf (s : State) : (s.advance).kbuf = s.kbuf := rfl
@[simp] theorem advance_kbegin (s : State) : (s.advance).kbegin = s.kbegin := rfl
@[simp] theorem advance_kend (s : State) : (s.advance).kend = s.kend := rfl
@[simp] theorem advance_ksize (s : State) : (s.advance).ksize = s.ksize := rfl
@[simp] theorem advance_tickCount (s : State) : (s.advance).tickCount = s.tickCount := rfl
@[simp] theorem advance_boot (s : State) : (s.advance).boot = s.boot := rfl
@[simp] theorem advance_mainOps (s : State) : (s.advance).mainOps = s.mainOps := rfl
@[simp] theorem advance_result (s : State) : (s.advance).result = s.result := rfl
@[simp] theorem advance_panelPin (s : State) : (s.advance).panelPin = s.panelPin := rfl
@[simp] theorem advance_backlightPin (s : State) : (s.advance).backlightPin = s.backlightPin := rfl
@[simp] theorem advance_lcd (s : State) : (s.advance).lcd = s.lcd := rfl
@[simp] theorem advance_keys (s : State) : (s.advance).keys = s.keys := rfl
@[simp] theorem advance_bus (s : State) : (s.advance).bus = s.bus := rfl
@[simp] theorem advance_turns (s : State) : (s.advance).turns = s.turns := rfl
@[simp] theorem advance_arbCount (s : State) : (s.advance).arbCount = s.arbCount := rfl

/-! ## `respond` -/

@[simp] theorem respond_params (s : State) (v : Byte) : (s.respond v).params = s.params := rfl
@[simp] theorem respond_status (s : State) (v : Byte) : (s.respond v).status = s.status := rfl
@[simp] theorem respond_mem (s : State) (v : Byte) : (s.respond v).mem = s.mem := rfl
@[simp] theorem respond_mapAddr (s : State) (v : Byte) : (s.respond v).mapAddr = s.mapAddr + 1#8 := rfl
@[simp] theorem respond_writeStart (s : State) (v : Byte) : (s.respond v).writeStart = s.writeStart := rfl
@[simp] theorem respond_nack (s : State) (v : Byte) : (s.respond v).nack = s.nack := rfl
@[simp] theorem respond_tx (s : State) (v : Byte) : (s.respond v).tx = some v := rfl
@[simp] theorem respond_evMask (s : State) (v : Byte) : (s.respond v).evMask = s.evMask := rfl
@[simp] theorem respond_csDepth (s : State) (v : Byte) : (s.respond v).csDepth = s.csDepth := rfl
@[simp] theorem respond_gie (s : State) (v : Byte) : (s.respond v).gie = s.gie := rfl
@[simp] theorem respond_inIsr (s : State) (v : Byte) : (s.respond v).inIsr = s.inIsr := rfl
@[simp] theorem respond_irqI2C (s : State) (v : Byte) : (s.respond v).irqI2C = s.irqI2C := rfl
@[simp] theorem respond_irqTimer (s : State) (v : Byte) : (s.respond v).irqTimer = s.irqTimer := rfl
@[simp] theorem respond_i2cEvent (s : State) (v : Byte) : (s.respond v).i2cEvent = s.i2cEvent := rfl
@[simp] theorem respond_kpCfg (s : State) (v : Byte) : (s.respond v).kpCfg = s.kpCfg := rfl
@[simp] theorem respond_lastKey (s : State) (v : Byte) : (s.respond v).lastKey = s.lastKey := rfl
@[simp] theorem respond_checkCount (s : State) (v : Byte) : (s.respond v).checkCount = s.checkCount := rfl
@[simp] theorem respond_kbuf (s : State) (v : Byte) : (s.respond v).kbuf = s.kbuf := rfl
@[simp] theorem respond_kbegin (s : State) (v : Byte) : (s.respond v).kbegin = s.kbegin := rfl
@[simp] theorem respond_kend (s : State) (v : Byte) : (s.respond v).kend = s.kend := rfl
@[simp] theorem respond_ksize (s : State) (v : Byte) : (s.respond v).ksize = s.ksize := rfl
@[simp] theorem respond_tickCount (s : State) (v : Byte) : (s.respond v).tickCount = s.tickCount := rfl
@[simp] theorem respond_boot (s : State) (v : Byte) : (s.respond v).boot = s.boot := rfl
@[simp] theorem respond_mainOps (s : State) (v : Byte) : (s.respond v).mainOps = s.mainOps := rfl
@[simp] theorem respond_result (s : State) (v : Byte) : (s.respond v).result = s.result := rfl
@[simp] theorem respond_panelPin (s : State) (v : Byte) : (s.respond v).panelPin = s.panelPin := rfl
@[simp] theorem respond_backlightPin (s : State) (v : Byte) : (s.respond v).backlightPin = s.backlightPin := rfl
@[simp] theorem respond_lcd (s : State) (v : Byte) : (s.respond v).lcd = s.lcd := rfl
@[simp] theorem respond_keys (s : State) (v : Byte) : (s.respond v).keys = s.keys := rfl
@[simp] theorem respond_bus (s : State) (v : Byte) : (s.respond v).bus = s.bus := rfl
@[simp] theorem respond_turns (s : State) (v : Byte) : (s.respond v).turns = s.turns := rfl
@[simp] theorem respond_arbCount (s : State) (v : Byte) : (s.respond v).arbCount = s.arbCount := rfl

/-! ## `powerOffReset` -/

@[simp] theorem powerOffReset_params (s : State) : (powerOffReset s).params = s.params := rfl
@[simp] theorem powerOffReset_status (s : State) : (powerOffReset s).status = s.status := rfl
@[simp] theorem powerOffReset_mem (s : State) : (powerOffReset s).mem = s.mem.powerOff := rfl
@[simp] theorem powerOffReset_mapAddr (s : State) : (powerOffReset s).mapAddr = s.mapAddr := rfl
@[simp] theorem powerOffReset_writeStart (s : State) : (powerOffReset s).writeStart = s.writeStart := rfl
@[simp] theorem powerOffReset_nack (s : State) : (powerOffReset s).nack = s.nack := rfl
@[simp] theorem powerOffReset_tx (s : State) : (powerOffReset s).tx = s.tx := rfl
@[simp] theorem powerOffReset_evMask (s : State) : (powerOffReset s).evMask = s.evMask := rfl
@[simp] theorem powerOffReset_csDepth (s : State) : (powerOffReset s).csDepth = s.csDepth := rfl
@[simp] theorem powerOffReset_gie (s : State) : (powerOffReset s).gie = s.gie := rfl
@[simp] theorem powerOffReset_inIsr (s : State) : (powerOffReset s).inIsr = s.inIsr := rfl
@[simp] theorem powerOffReset_irqI2C (s : State) : (powerOffReset s).irqI2C = s.irqI2C := rfl
@[simp] theorem powerOffReset_irqTimer (s : State) : (powerOffReset s).irqTimer = s.irqTimer := rfl
@[simp] theorem powerOffReset_i2cEvent (s : State) : (powerOffReset s).i2cEvent = s.i2cEvent := rfl
@[simp] theorem powerOffReset_kpCfg (s : State) : (powerOffReset s).kpCfg = s.kpCfg := rfl
@[simp] theorem powerOffReset_lastKey (s : State) : (powerOffReset s).lastKey = s.lastKey := rfl
@[simp] theorem powerOffReset_checkCount (s : State) : (powerOffReset s).checkCount = s.checkCount := rfl
@[simp] theorem powerOffReset_kbuf (s : State) : (powerOffReset s).kbuf = s.kbuf := rfl
@[simp] theorem powerOffReset_kbegin (s : State) : (powerOffReset s).kbegin = s.kbegin := rfl
@[simp] theorem powerOffReset_kend (s : State) : (powerOffReset s).kend = s.kend := rfl
@[simp] theorem powerOffReset_ksize (s : State) : (powerOffReset s).ksize = s.ksize := rfl
@[simp] theorem powerOffReset_tickCount (s : State) : (powerOffReset s).tickCount = s.tickCount := rfl
@[simp] theorem powerOffReset_boot (s : State) : (powerOffReset s).boot = s.boot := rfl
@[simp] theorem powerOffReset_mainOps (s : State) : (powerOffReset s).mainOps = s.mainOps := rfl
@[simp] theorem powerOffReset_result (s : State) : (powerOffReset s).result = s.result := rfl
@[simp] theorem powerOffReset_panelPin (s : State) : (powerOffReset s).panelPin = s.panelPin := rfl
@[simp] theorem powerOffReset_backlightPin (s : State) : (powerOffReset s).backlightPin = s.backlightPin := rfl
@[simp] theorem powerOffReset_lcd (s : State) : (powerOffReset s).lcd = s.lcd := rfl
@[simp] theorem powerOffReset_keys (s : State) : (powerOffReset s).keys = s.keys := rfl
@[simp] theorem powerOffReset_bus (s : State) : (powerOffReset s).bus = s.bus := rfl
@[simp] theorem powerOffReset_turns (s : State) : (powerOffReset s).turns = s.turns := rfl
@[simp] theorem powerOffReset_arbCount (s : State) : (powerOffReset s).arbCount = s.arbCount := rfl

/-! ## `leaveHandler` -/

@[simp] theorem leaveHandler_params (s : State) : (leaveHandler s).params = s.params := rfl
@[simp] theorem leaveHandler_status (s : State) : (leaveHandler s).status = s.status := rfl
@[simp] theorem leaveHandler_mem (s : State) : (leaveHandler s).mem = s.mem := rfl
@[simp] theorem leaveHandler_mapAddr (s : State) : (leaveHandler s).mapAddr = s.mapAddr := rfl
@[simp] theorem leaveHandler_writeStart (s : State) : (leaveHandler s).writeStart = s.writeStart := rfl
@[simp] theorem leaveHandler_nack (s : State) : (leaveHandler s).nack = s.nack := rfl
@[simp] theorem leaveHandler_tx (s : State) : (leaveHandler s).tx = s.tx := rfl
@[simp] theorem leaveHandler_evMask (s : State) : (leaveHandler s).evMask = s.evMask := rfl
@[simp] theorem leaveHandler_csDepth (s : State) : (leaveHandler s).csDepth = s.csDepth := rfl
@[simp] theorem leaveHandler_gie (s : State) : (leaveHandler s).gie = s.gie := rfl
@[simp] theorem leaveHandler_inIsr (s : State) : (leaveHandler s).inIsr = false := rfl
@[simp] theorem leaveHandler_irqI2C (s : State) : (leaveHandler s).irqI2C = s.irqI2C := rfl
@[simp] theorem leaveHandler_irqTimer (s : State) : (leaveHandler s).irqTimer = s.irqTimer := rfl
@[simp] theorem leaveHandler_i2cEvent (s : State) : (leaveHandler s).i2cEvent = s.i2cEvent := rfl
@[simp] theorem leaveHandler_kpCfg (s : State) : (leaveHandler s).kpCfg = s.kpCfg := rfl
@[simp] theorem leaveHandler_lastKey (s : State) : (leaveHandler s).lastKey = s.lastKey := rfl
@[simp] theorem leaveHandler_checkCount (s : State) : (leaveHandler s).checkCount = s.checkCount := rfl
@[simp] theorem leaveHandler_kbuf (s : State) : (leaveHandler s).kbuf = s.kbuf := rfl
@[simp] theorem leaveHandler_kbegin (s : State) : (leaveHandler s).kbegin = s.kbegin := rfl
@[simp] theorem leaveHandler_kend (s : State) : (leaveHandler s).kend = s.kend := rfl
@[simp] theorem leaveHandler_ksize (s : State) : (leaveHandler s).ksize = s.ksize := rfl
@[simp] theorem leaveHandler_tickCount (s : State) : (leaveHandler s).tickCount = s.tickCount := rfl
@[simp] theorem leaveHandler_boot (s : State) : (leaveHandler s).boot = s.boot := rfl
@[simp] theorem leaveHandler_mainOps (s : State) : (leaveHandler s).mainOps = s.mainOps := rfl
@[simp] theorem leaveHandler_result (s : State) : (leaveHandler s).result = s.result := rfl
@[simp] theorem leaveHandler_panelPin (s : State) : (leaveHandler s).panelPin = s.panelPin := rfl
@[simp] theorem leaveHandler_backlightPin (s : State) : (leaveHandler s).backlightPin = s.backlightPin := rfl
@[simp] theorem leaveHandler_lcd (s : State) : (leaveHandler s).lcd = s.lcd := rfl
@[simp] theorem leaveHandler_keys (s : State) : (leaveHandler s).keys = s.keys := rfl
@[simp] theorem leaveHandler_bus (s : State) : (leaveHandler s).bus = s.bus := rfl
@[simp] theorem leaveHandler_turns (s : State) : (leaveHandler s).turns = s.turns := rfl
@[simp] theorem leaveHandler_arbCount (s : State) : (leaveHandler s).arbCount = s.arbCount := rfl

/-! ## `enterSlave` -/

@[simp] theorem enterSlave_params (s : State) : (enterHandler .i2c s).params = s.params := rfl
@[simp] theorem enterSlave_status (s : State) : (enterHandler .i2c s).status = s.status := rfl
@[simp] theorem enterSlave_mem (s : State) : (enterHandler .i2c s).mem = s.mem := rfl
@[simp] theorem enterSlave_mapAddr (s : State) : (enterHandler .i2c s).mapAddr = s.mapAddr := rfl
@[simp] theorem enterSlave_writeStart (s : State) : (enterHandler .i2c s).writeStart = s.writeStart := rfl
@[simp] theorem enterSlave_nack (s : State) : (enterHandler .i2c s).nack = s.nack := rfl
@[simp] theorem enterSlave_tx (s : State) : (enterHandler .i2c s).tx = s.tx := rfl
@[simp] theorem enterSlave_evMask (s : State) : (enterHandler .i2c s).evMask = s.evMask := rfl
@[simp] theorem enterSlave_csDepth (s : State) : (enterHandler .i2c s).csDepth = s.csDepth := rfl
@[simp] theorem enterSlave_gie (s : State) : (enterHandler .i2c s).gie = s.gie := rfl
@[simp] theorem enterSlave_inIsr (s : State) : (enterHandler .i2c s).inIsr = true := rfl
@[simp] theorem enterSlave_irqI2C (s : State) : (enterHandler .i2c s).irqI2C = false := rfl
@[simp] theorem enterSlave_irqTimer (s : State) : (enterHandler .i2c s).irqTimer = s.irqTimer := rfl
@[simp] theorem enterSlave_i2cEvent (s : State) : (enterHandler .i2c s).i2cEvent = s.i2cEvent := rfl
@[simp] theorem enterSlave_kpCfg (s : State) : (enterHandler .i2c s).kpCfg = s.kpCfg := rfl
@[simp] theorem enterSlave_lastKey (s : State) : (enterHandler .i2c s).lastKey = s.lastKey := rfl
@[simp] theorem enterSlave_checkCount (s : State) : (enterHandler .i2c s).checkCount = s.checkCount := rfl
@[simp] theorem enterSlave_kbuf (s : State) : (enterHandler .i2c s).kbuf = s.kbuf := rfl
@[simp] theorem enterSlave_kbegin (s : State) : (enterHandler .i2c s).kbegin = s.kbegin := rfl
@[simp] theorem enterSlave_kend (s : State) : (enterHandler .i2c s).kend = s.kend := rfl
@[simp] theorem enterSlave_ksize (s : State) : (enterHandler .i2c s).ksize = s.ksize := rfl
@[simp] theorem enterSlave_tickCount (s : State) : (enterHandler .i2c s).tickCount = s.tickCount := rfl
@[simp] theorem enterSlave_boot (s : State) : (enterHandler .i2c s).boot = s.boot := rfl
@[simp] theorem enterSlave_mainOps (s : State) : (enterHandler .i2c s).mainOps = s.mainOps := rfl
@[simp] theorem enterSlave_result (s : State) : (enterHandler .i2c s).result = s.result := rfl
@[simp] theorem enterSlave_panelPin (s : State) : (enterHandler .i2c s).panelPin = s.panelPin := rfl
@[simp] theorem enterSlave_backlightPin (s : State) : (enterHandler .i2c s).backlightPin = s.backlightPin := rfl
@[simp] theorem enterSlave_lcd (s : State) : (enterHandler .i2c s).lcd = s.lcd := rfl
@[simp] theorem enterSlave_keys (s : State) : (enterHandler .i2c s).keys = s.keys := rfl
@[simp] theorem enterSlave_bus (s : State) : (enterHandler .i2c s).bus = s.bus := rfl
@[simp] theorem enterSlave_turns (s : State) : (enterHandler .i2c s).turns = s.turns := rfl
@[simp] theorem enterSlave_arbCount (s : State) : (enterHandler .i2c s).arbCount = s.arbCount := rfl

/-! ## `enterTimer` -/

@[simp] theorem enterTimer_params (s : State) : (enterHandler .timer s).params = s.params := rfl
@[simp] theorem enterTimer_status (s : State) : (enterHandler .timer s).status = s.status := rfl
@[simp] theorem enterTimer_mem (s : State) : (enterHandler .timer s).mem = s.mem := rfl
@[simp] theorem enterTimer_mapAddr (s : State) : (enterHandler .timer s).mapAddr = s.mapAddr := rfl
@[simp] theorem enterTimer_writeStart (s : State) : (enterHandler .timer s).writeStart = s.writeStart := rfl
@[simp] theorem enterTimer_nack (s : State) : (enterHandler .timer s).nack = s.nack := rfl
@[simp] theorem enterTimer_tx (s : State) : (enterHandler .timer s).tx = s.tx := rfl
@[simp] theorem enterTimer_evMask (s : State) : (enterHandler .timer s).evMask = s.evMask := rfl
@[simp] theorem enterTimer_csDepth (s : State) : (enterHandler .timer s).csDepth = s.csDepth := rfl
@[simp] theorem enterTimer_gie (s : State) : (enterHandler .timer s).gie = s.gie := rfl
@[simp] theorem enterTimer_inIsr (s : State) : (enterHandler .timer s).inIsr = true := rfl
@[simp] theorem enterTimer_irqI2C (s : State) : (enterHandler .timer s).irqI2C = s.irqI2C := rfl
@[simp] theorem enterTimer_irqTimer (s : State) : (enterHandler .timer s).irqTimer = false := rfl
@[simp] theorem enterTimer_i2cEvent (s : State) : (enterHandler .timer s).i2cEvent = s.i2cEvent := rfl
@[simp] theorem enterTimer_kpCfg (s : State) : (enterHandler .timer s).kpCfg = s.kpCfg := rfl
@[simp] theorem enterTimer_lastKey (s : State) : (enterHandler .timer s).lastKey = s.lastKey := rfl
@[simp] theorem enterTimer_checkCount (s : State) : (enterHandler .timer s).checkCount = s.checkCount := rfl
@[simp] theorem enterTimer_kbuf (s : State) : (enterHandler .timer s).kbuf = s.kbuf := rfl
@[simp] theorem enterTimer_kbegin (s : State) : (enterHandler .timer s).kbegin = s.kbegin := rfl
@[simp] theorem enterTimer_kend (s : State) : (enterHandler .timer s).kend = s.kend := rfl
@[simp] theorem enterTimer_ksize (s : State) : (enterHandler .timer s).ksize = s.ksize := rfl
@[simp] theorem enterTimer_tickCount (s : State) : (enterHandler .timer s).tickCount = s.tickCount := rfl
@[simp] theorem enterTimer_boot (s : State) : (enterHandler .timer s).boot = s.boot := rfl
@[simp] theorem enterTimer_mainOps (s : State) : (enterHandler .timer s).mainOps = s.mainOps := rfl
@[simp] theorem enterTimer_result (s : State) : (enterHandler .timer s).result = s.result := rfl
@[simp] theorem enterTimer_panelPin (s : State) : (enterHandler .timer s).panelPin = s.panelPin := rfl
@[simp] theorem enterTimer_backlightPin (s : State) : (enterHandler .timer s).backlightPin = s.backlightPin := rfl
@[simp] theorem enterTimer_lcd (s : State) : (enterHandler .timer s).lcd = s.lcd := rfl
@[simp] theorem enterTimer_keys (s : State) : (enterHandler .timer s).keys = s.keys := rfl
@[simp] theorem enterTimer_bus (s : State) : (enterHandler .timer s).bus = s.bus := rfl
@[simp] theorem enterTimer_turns (s : State) : (enterHandler .timer s).turns = s.turns := rfl
@[simp] theorem enterTimer_arbCount (s : State) : (enterHandler .timer s).arbCount = s.arbCount := rfl

/-! ## `lineUpCalls` -/

@[simp] theorem lineUpCalls_params (s : State) (cs : List LcdCall) : (s.lineUpCalls cs).params = s.params := rfl
@[simp] theorem lineUpCalls_status (s : State) (cs : List LcdCall) : (s.lineUpCalls cs).status = s.status := rfl
@[simp] theorem lineUpCalls_mem (s : State) (cs : List LcdCall) : (s.lineUpCalls cs).mem = s.mem := rfl
@[simp] theorem lineUpCalls_mapAddr (s : State) (cs : List LcdCall) : (s.lineUpCalls cs).mapAddr = s.mapAddr := rfl
@[simp] theorem lineUpCalls_writeStart (s : State) (cs : List LcdCall) : (s.lineUpCalls cs).writeStart = s.writeStart := rfl
@[simp] theorem lineUpCalls_nack (s : State) (cs : List LcdCall) : (s.lineUpCalls cs).nack = s.nack := rfl
@[simp] theorem lineUpCalls_tx (s : State) (cs : List LcdCall) : (s.lineUpCalls cs).tx = s.tx := rfl
@[simp] theorem lineUpCalls_evMask (s : State) (cs : List LcdCall) : (s.lineUpCalls cs).evMask = s.evMask := rfl
@[simp] theorem lineUpCalls_csDepth (s : State) (cs : List LcdCall) : (s.lineUpCalls cs).csDepth = s.csDepth := rfl
@[simp] theorem lineUpCalls_gie (s : State) (cs : List LcdCall) : (s.lineUpCalls cs).gie = s.gie := rfl
@[simp] theorem lineUpCalls_inIsr (s : State) (cs : List LcdCall) : (s.lineUpCalls cs).inIsr = s.inIsr := rfl
@[simp] theorem lineUpCalls_irqI2C (s : State) (cs : List LcdCall) : (s.lineUpCalls cs).irqI2C = s.irqI2C := rfl
@[simp] theorem lineUpCalls_irqTimer (s : State) (cs : List LcdCall) : (s.lineUpCalls cs).irqTimer = s.irqTimer := rfl
@[simp] theorem lineUpCalls_i2cEvent (s : State) (cs : List LcdCall) : (s.lineUpCalls cs).i2cEvent = s.i2cEvent := rfl
@[simp] theorem lineUpCalls_kpCfg (s : State) (cs : List LcdCall) : (s.lineUpCalls cs).kpCfg = s.kpCfg := rfl
@[simp] theorem lineUpCalls_lastKey (s : State) (cs : List LcdCall) : (s.lineUpCalls cs).lastKey = s.lastKey := rfl
@[simp] theorem lineUpCalls_checkCount (s : State) (cs : List LcdCall) : (s.lineUpCalls cs).checkCount = s.checkCount := rfl
@[simp] theorem lineUpCalls_kbuf (s : State) (cs : List LcdCall) : (s.lineUpCalls cs).kbuf = s.kbuf := rfl
@[simp] theorem lineUpCalls_kbegin (s : State) (cs : List LcdCall) : (s.lineUpCalls cs).kbegin = s.kbegin := rfl
@[simp] theorem lineUpCalls_kend (s : State) (cs : List LcdCall) : (s.lineUpCalls cs).kend = s.kend := rfl
@[simp] theorem lineUpCalls_ksize (s : State) (cs : List LcdCall) : (s.lineUpCalls cs).ksize = s.ksize := rfl
@[simp] theorem lineUpCalls_tickCount (s : State) (cs : List LcdCall) : (s.lineUpCalls cs).tickCount = s.tickCount := rfl
@[simp] theorem lineUpCalls_boot (s : State) (cs : List LcdCall) : (s.lineUpCalls cs).boot = s.boot := rfl
@[simp] theorem lineUpCalls_mainOps (s : State) (cs : List LcdCall) : (s.lineUpCalls cs).mainOps = cs.map .lcdCall ++ s.mainOps := rfl
@[simp] theorem lineUpCalls_result (s : State) (cs : List LcdCall) : (s.lineUpCalls cs).result = s.result := rfl
@[simp] theorem lineUpCalls_panelPin (s : State) (cs : List LcdCall) : (s.lineUpCalls cs).panelPin = s.panelPin := rfl
@[simp] theorem lineUpCalls_backlightPin (s : State) (cs : List LcdCall) : (s.lineUpCalls cs).backlightPin = s.backlightPin := rfl
@[simp] theorem lineUpCalls_lcd (s : State) (cs : List LcdCall) : (s.lineUpCalls cs).lcd = s.lcd := rfl
@[simp] theorem lineUpCalls_keys (s : State) (cs : List LcdCall) : (s.lineUpCalls cs).keys = s.keys := rfl
@[simp] theorem lineUpCalls_bus (s : State) (cs : List LcdCall) : (s.lineUpCalls cs).bus = s.bus := rfl
@[simp] theorem lineUpCalls_turns (s : State) (cs : List LcdCall) : (s.lineUpCalls cs).turns = s.turns := rfl
@[simp] theorem lineUpCalls_arbCount (s : State) (cs : List LcdCall) : (s.lineUpCalls cs).arbCount = s.arbCount := rfl

/-! ## `makeCall` -/

@[simp] theorem makeCall_params (s : State) (c : LcdCall) : (s.makeCall c).params = s.params := rfl
@[simp] theorem makeCall_status (s : State) (c : LcdCall) : (s.makeCall c).status = s.status := rfl
@[simp] theorem makeCall_mem (s : State) (c : LcdCall) : (s.makeCall c).mem = s.mem := rfl
@[simp] theorem makeCall_mapAddr (s : State) (c : LcdCall) : (s.makeCall c).mapAddr = s.mapAddr := rfl
@[simp] theorem makeCall_writeStart (s : State) (c : LcdCall) : (s.makeCall c).writeStart = s.writeStart := rfl
@[simp] theorem makeCall_nack (s : State) (c : LcdCall) : (s.makeCall c).nack = s.nack := rfl
@[simp] theorem makeCall_tx (s : State) (c : LcdCall) : (s.makeCall c).tx = s.tx := rfl
@[simp] theorem makeCall_evMask (s : State) (c : LcdCall) : (s.makeCall c).evMask = s.evMask := rfl
@[simp] theorem makeCall_csDepth (s : State) (c : LcdCall) : (s.makeCall c).csDepth = s.csDepth := rfl
@[simp] theorem makeCall_gie (s : State) (c : LcdCall) : (s.makeCall c).gie = s.gie := rfl
@[simp] theorem makeCall_inIsr (s : State) (c : LcdCall) : (s.makeCall c).inIsr = s.inIsr := rfl
@[simp] theorem makeCall_irqI2C (s : State) (c : LcdCall) : (s.makeCall c).irqI2C = s.irqI2C := rfl
@[simp] theorem makeCall_irqTimer (s : State) (c : LcdCall) : (s.makeCall c).irqTimer = s.irqTimer := rfl
@[simp] theorem makeCall_i2cEvent (s : State) (c : LcdCall) : (s.makeCall c).i2cEvent = s.i2cEvent := rfl
@[simp] theorem makeCall_kpCfg (s : State) (c : LcdCall) : (s.makeCall c).kpCfg = s.kpCfg := rfl
@[simp] theorem makeCall_lastKey (s : State) (c : LcdCall) : (s.makeCall c).lastKey = s.lastKey := rfl
@[simp] theorem makeCall_checkCount (s : State) (c : LcdCall) : (s.makeCall c).checkCount = s.checkCount := rfl
@[simp] theorem makeCall_kbuf (s : State) (c : LcdCall) : (s.makeCall c).kbuf = s.kbuf := rfl
@[simp] theorem makeCall_kbegin (s : State) (c : LcdCall) : (s.makeCall c).kbegin = s.kbegin := rfl
@[simp] theorem makeCall_kend (s : State) (c : LcdCall) : (s.makeCall c).kend = s.kend := rfl
@[simp] theorem makeCall_ksize (s : State) (c : LcdCall) : (s.makeCall c).ksize = s.ksize := rfl
@[simp] theorem makeCall_tickCount (s : State) (c : LcdCall) : (s.makeCall c).tickCount = s.tickCount := rfl
@[simp] theorem makeCall_boot (s : State) (c : LcdCall) : (s.makeCall c).boot = s.boot := rfl
@[simp] theorem makeCall_mainOps (s : State) (c : LcdCall) : (s.makeCall c).mainOps = s.mainOps := rfl
@[simp] theorem makeCall_result (s : State) (c : LcdCall) : (s.makeCall c).result = s.result := rfl
@[simp] theorem makeCall_panelPin (s : State) (c : LcdCall) : (s.makeCall c).panelPin = c.panelAfter s.panelPin := rfl
@[simp] theorem makeCall_backlightPin (s : State) (c : LcdCall) : (s.makeCall c).backlightPin = c.backlightAfter s.backlightPin := rfl
@[simp] theorem makeCall_lcd (s : State) (c : LcdCall) : (s.makeCall c).lcd = s.lcd ++ [c] := rfl
@[simp] theorem makeCall_keys (s : State) (c : LcdCall) : (s.makeCall c).keys = s.keys := rfl
@[simp] theorem makeCall_bus (s : State) (c : LcdCall) : (s.makeCall c).bus = s.bus := rfl
@[simp] theorem makeCall_turns (s : State) (c : LcdCall) : (s.makeCall c).turns = s.turns := rfl
@[simp] theorem makeCall_arbCount (s : State) (c : LcdCall) : (s.makeCall c).arbCount = s.arbCount := rfl

/-! ## `afterBracket` -/

@[simp] theorem afterBracket_params (s : State) : (afterBracket s).params = s.params := rfl
@[simp] theorem afterBracket_status (s : State) : (afterBracket s).status = s.status := rfl
@[simp] theorem afterBracket_mem (s : State) : (afterBracket s).mem = s.mem := rfl
@[simp] theorem afterBracket_mapAddr (s : State) : (afterBracket s).mapAddr = s.mapAddr := rfl
@[simp] theorem afterBracket_writeStart (s : State) : (afterBracket s).writeStart = s.writeStart := rfl
@[simp] theorem afterBracket_nack (s : State) : (afterBracket s).nack = s.nack := rfl
@[simp] theorem afterBracket_tx (s : State) : (afterBracket s).tx = s.tx := rfl
@[simp] theorem afterBracket_evMask (s : State) : (afterBracket s).evMask = s.evMask := rfl
@[simp] theorem afterBracket_csDepth (s : State) : (afterBracket s).csDepth = s.csDepth := rfl
@[simp] theorem afterBracket_gie (s : State) : (afterBracket s).gie = decide (s.csDepth = 0) := rfl
@[simp] theorem afterBracket_inIsr (s : State) : (afterBracket s).inIsr = s.inIsr := rfl
@[simp] theorem afterBracket_irqI2C (s : State) : (afterBracket s).irqI2C = s.irqI2C := rfl
@[simp] theorem afterBracket_irqTimer (s : State) : (afterBracket s).irqTimer = s.irqTimer := rfl
@[simp] theorem afterBracket_i2cEvent (s : State) : (afterBracket s).i2cEvent = s.i2cEvent := rfl
@[simp] theorem afterBracket_kpCfg (s : State) : (afterBracket s).kpCfg = s.kpCfg := rfl
@[simp] theorem afterBracket_lastKey (s : State) : (afterBracket s).lastKey = s.lastKey := rfl
@[simp] theorem afterBracket_checkCount (s : State) : (afterBracket s).checkCount = s.checkCount := rfl
@[simp] theorem afterBracket_kbuf (s : State) : (afterBracket s).kbuf = s.kbuf := rfl
@[simp] theorem afterBracket_kbegin (s : State) : (afterBracket s).kbegin = s.kbegin := rfl
@[simp] theorem afterBracket_kend (s : State) : (afterBracket s).kend = s.kend := rfl
@[simp] theorem afterBracket_ksize (s : State) : (afterBracket s).ksize = s.ksize := rfl
@[simp] theorem afterBracket_tickCount (s : State) : (afterBracket s).tickCount = s.tickCount := rfl
@[simp] theorem afterBracket_boot (s : State) : (afterBracket s).boot = s.boot := rfl
@[simp] theorem afterBracket_mainOps (s : State) : (afterBracket s).mainOps = s.mainOps := rfl
@[simp] theorem afterBracket_result (s : State) : (afterBracket s).result = s.result := rfl
@[simp] theorem afterBracket_panelPin (s : State) : (afterBracket s).panelPin = s.panelPin := rfl
@[simp] theorem afterBracket_backlightPin (s : State) : (afterBracket s).backlightPin = s.backlightPin := rfl
@[simp] theorem afterBracket_lcd (s : State) : (afterBracket s).lcd = s.lcd := rfl
@[simp] theorem afterBracket_keys (s : State) : (afterBracket s).keys = s.keys := rfl
@[simp] theorem afterBracket_bus (s : State) : (afterBracket s).bus = s.bus := rfl
@[simp] theorem afterBracket_turns (s : State) : (afterBracket s).turns = s.turns := rfl
@[simp] theorem afterBracket_arbCount (s : State) : (afterBracket s).arbCount = s.arbCount := rfl

end Sys2Proof.Machine
end

