-- ==== Sys2Proof/Laws/Ops.lean ====
section
/-! SUPPORT. What each shared operation can do, said once: the guard and its brackets, the events, the common data write,
the keypad and the tick, the handlers' pieces, and the choice of the interrupt that runs. -/

namespace Sys2Proof.Machine

/-! ## The guard -/

theorem csBegin_room {s : State} (h : RoomInGuard s) :
    csBegin s = .ok { s with gie := false, csDepth := s.csDepth + 1 } := by
  unfold csBegin; exact if_pos h

theorem csBegin_full {s : State} (h : ¬ RoomInGuard s) : csBegin s = .error .csDepthOverflow := by
  unfold csBegin; exact if_neg h

/-- The whole of `csEnd`. -/
theorem csEnd_cases (s : State) :
    (s.csDepth = 0 ∧ csEnd s = .error .csDepthUnderflow) ∨
      (s.csDepth = 1 ∧ csEnd s = .ok { s with csDepth := 0, gie := true }) ∨
      (2 ≤ s.csDepth ∧ csEnd s = .ok { s with csDepth := s.csDepth - 1 }) := by
  by_cases h0 : s.csDepth = 0
  · exact .inl ⟨h0, by simp only [csEnd, if_pos h0]⟩
  · by_cases h1 : s.csDepth = 1
    · exact .inr (.inl ⟨h1, by simp [csEnd, h1]⟩)
    · exact .inr (.inr ⟨by omega, by simp only [csEnd, if_neg h0, if_neg h1]⟩)

/-- A bracket's body that neither reads nor writes the guard. -/
def IgnoresGuard {α : Type} (f : State → α × State) : Prop :=
  ∀ (s : State) (g : Bool) (d : Nat),
    f { s with gie := g, csDepth := d } = ((f s).1, { (f s).2 with gie := g, csDepth := d })

theorem IgnoresGuard.csDepth {α : Type} {f : State → α × State} (hf : IgnoresGuard f) (s : State) :
    (f s).2.csDepth = s.csDepth := congrArg (fun p => p.2.csDepth) (hf s s.gie s.csDepth)

theorem IgnoresGuard.gie {α : Type} {f : State → α × State} (hf : IgnoresGuard f) (s : State) :
    (f s).2.gie = s.gie := congrArg (fun p => p.2.gie) (hf s s.gie s.csDepth)

/-- A balanced bracket: the body's effect, `gie` = 1 exactly if it was the outermost. -/
theorem bracketGet_room {α : Type} {f : State → α × State} (hf : IgnoresGuard f) {s : State} (h : RoomInGuard s) :
    bracketGet f s = .ok ((f s).1, afterBracket (f s).2) := by
  have hd := hf.csDepth s
  simp only [bracketGet, csBegin_room h]
  rw [hf s false (s.csDepth + 1)]
  dsimp only
  generalize (f s).2 = t at hd ⊢
  rcases csEnd_cases { t with gie := false, csDepth := s.csDepth + 1 } with ⟨h0, -⟩ | ⟨h1, he⟩ | ⟨h2, he⟩
  · exact absurd h0 (Nat.succ_ne_zero _)
  · have h0 : s.csDepth = 0 := Nat.succ_inj.1 h1
    rw [he, afterBracket, hd, h0]
    rfl
  · have h0 : s.csDepth ≠ 0 := by
      have : 2 ≤ s.csDepth + 1 := h2
      omega
    rw [he, afterBracket, hd, decide_eq_false h0]
    dsimp only
    rw [Nat.add_sub_cancel, ← hd]

theorem bracketGet_full {α : Type} (f : State → α × State) {s : State} (h : ¬ RoomInGuard s) :
    bracketGet f s = .error .csDepthOverflow := by simp only [bracketGet, csBegin_full h]

/-- A bracket is a bracket that answers nothing. -/
theorem bracket_eq (f : State → State) (s : State) :
    bracket f s = (bracketGet (fun t => ((), f t)) s).map Prod.snd := by
  unfold bracket bracketGet
  cases csBegin s with
  | error e => rfl
  | ok t => dsimp only; cases csEnd (f t) <;> rfl

theorem bracket_room {f : State → State} (hf : IgnoresGuard fun t => ((), f t)) {s : State} (h : RoomInGuard s) :
    bracket f s = .ok (afterBracket (f s)) := by
  rw [bracket_eq, bracketGet_room hf h]; rfl

theorem bracket_full (f : State → State) {s : State} (h : ¬ RoomInGuard s) : bracket f s = .error .csDepthOverflow := by
  rw [bracket_eq, bracketGet_full _ h]; rfl

/-! ## Events -/

theorem evRaise_room (f : EventFlag) {s : State} (h : RoomInGuard s) : evRaise f s = .ok (afterBracket (s.raiseFlag f)) :=
  bracket_room (fun _ _ _ => rfl) h

theorem evRaise_full (f : EventFlag) {s : State} (h : ¬ RoomInGuard s) : evRaise f s = .error .csDepthOverflow :=
  bracket_full _ h

theorem evDrain_room {s : State} (h : RoomInGuard s) : evDrain s = .ok (s.evMask, afterBracket s.drainFlags) :=
  bracketGet_room (fun _ _ _ => rfl) h

theorem evDrain_full {s : State} (h : ¬ RoomInGuard s) : evDrain s = .error .csDepthOverflow := bracketGet_full _ h

/-! ## The legal values (`spec/30_encoding.md` R67) -/

theorem legal_power (b : Byte) : Field.power.legal b = true ↔ b.toNat ≤ 3 := decide_eq_true_iff
theorem legal_contrast (b : Byte) : Field.contrast.legal b = true ↔ b.toNat ≤ 63 := decide_eq_true_iff
theorem legal_cursorType (b : Byte) : Field.cursorType.legal b = true ↔ b.toNat ≤ 3 := decide_eq_true_iff
theorem legal_cursorRow (b : Byte) : Field.cursorRow.legal b = true ↔ b.toNat ≤ 1 := decide_eq_true_iff
theorem legal_cursorCol (b : Byte) : Field.cursorCol.legal b = true ↔ b.toNat ≤ 39 := decide_eq_true_iff
theorem legal_display (i : Fin 80) (b : Byte) : (Field.display i).legal b = true := rfl
theorem legal_cgram (i : Fin 64) (b : Byte) : (Field.cgram i).legal b = true ↔ b.toNat ≤ 0x1F := decide_eq_true_iff
theorem legal_icon (i : Fin 16) (b : Byte) : (Field.icon i).legal b = true ↔ b.toNat ≤ 0x1F := decide_eq_true_iff

/-! ## The common data write -/

theorem writeField_illegal {f : Field} {side : State → State} {e : EventFlag} {b : Byte} {s : State}
    (h : f.legal b = false) : writeField f side e b s = .ok s.raiseNack := by simp [writeField, h]

theorem writeField_unchanged {f : Field} {side : State → State} {e : EventFlag} {b : Byte} {s : State}
    (h : f.legal b = true) (hb : b = s.field f) : writeField f side e b s = .ok s.advance := by
  simp [writeField, h, ← hb]

theorem writeField_changed {f : Field} {side : State → State} {e : EventFlag} {b : Byte} {s : State}
    (h : f.legal b = true) (hb : b ≠ s.field f) (hr : RoomInGuard (side (s.setField f b))) :
    writeField f side e b s = .ok (afterBracket ((side (s.setField f b)).raiseFlag e)).advance := by
  simp [writeField, h, hb, evRaise_room e hr]

theorem writeField_full {f : Field} {side : State → State} {e : EventFlag} {b : Byte} {s : State}
    (h : f.legal b = true) (hb : b ≠ s.field f) (hr : ¬ RoomInGuard (side (s.setField f b))) :
    writeField f side e b s = .error .csDepthOverflow := by
  simp [writeField, h, hb, evRaise_full e hr]

/-! ## Keypad -/

/-- `ringOk` as a proposition. -/
theorem ringOk_iff (s : State) :
    ringOk s = true ↔ s.ksize ≤ s.params.keyBufCap ∧ s.kbegin < s.params.keyBufCap ∧ s.kend < s.params.keyBufCap ∧
      s.kend = (s.kbegin + s.ksize) % s.params.keyBufCap := by
  simp [ringOk, and_assoc]

theorem RingSound.ringOk {s : State} (h : RingSound s) : ringOk s = true := by
  obtain ⟨h1, -, h3, h4, h5, -⟩ := h
  exact (ringOk_iff s).2 ⟨h3, h4, h5 ▸ Nat.mod_lt _ (by omega), h5⟩

theorem withRing_ok {α : Type} {s : State} (h : ringOk s = true) (x : Except Fault α) : withRing s x = x := by
  simp [withRing, h]

theorem withRing_corrupt {α : Type} {s : State} (h : ringOk s = false) (x : Except Fault α) :
    withRing s x = .error .ringCorrupt := by simp [withRing, h]

/-- The whole of `kpRead`. -/
theorem kpRead_cases (s : State) :
    (kpScan s.keys ≠ s.lastKey ∧ kpRead s = (keyNone, { s with lastKey := kpScan s.keys, checkCount := 1 })) ∨
      (kpScan s.keys = s.lastKey ∧ s.lastKey = keyNone ∧ kpRead s = (keyNone, s)) ∨
      (kpScan s.keys = s.lastKey ∧ s.lastKey ≠ keyNone ∧
        (s.checkCount + 1 = s.params.tDebounce ∨ s.checkCount + 1 = s.params.tHold) ∧
        kpRead s = (s.lastKey, { s with checkCount := s.checkCount + 1 })) ∨
      (kpScan s.keys = s.lastKey ∧ s.lastKey ≠ keyNone ∧
        s.checkCount + 1 ≠ s.params.tDebounce ∧ s.checkCount + 1 ≠ s.params.tHold ∧
        s.checkCount + 1 = s.params.tHold + s.params.tRepeat ∧
        kpRead s = (s.lastKey, { s with checkCount := s.params.tHold })) ∨
      (kpScan s.keys = s.lastKey ∧ s.lastKey ≠ keyNone ∧
        s.checkCount + 1 ≠ s.params.tDebounce ∧ s.checkCount + 1 ≠ s.params.tHold ∧
        s.checkCount + 1 ≠ s.params.tHold + s.params.tRepeat ∧
        kpRead s = (keyNone, { s with checkCount := s.checkCount + 1 })) := by
  by_cases h1 : kpScan s.keys = s.lastKey
  · by_cases h2 : s.lastKey = keyNone
    · exact .inr (.inl ⟨h1, h2, by simp [kpRead, h1, h2]⟩)
    · by_cases h3 : s.checkCount + 1 = s.params.tDebounce
      · exact .inr (.inr (.inl ⟨h1, h2, .inl h3, by simp [kpRead, h1, h2, h3]⟩))
      · by_cases h4 : s.checkCount + 1 = s.params.tHold
        · exact .inr (.inr (.inl ⟨h1, h2, .inr h4, by simp [kpRead, h1, h2, h4]⟩))
        · by_cases h5 : s.checkCount + 1 = s.params.tHold + s.params.tRepeat
          · exact .inr (.inr (.inr (.inl ⟨h1, h2, h3, h4, h5, by
              simp only [kpRead, h1, ne_eq, not_true_eq_false, if_false, h2, h3, h4, if_pos h5]⟩)))
          · exact .inr (.inr (.inr (.inr ⟨h1, h2, h3, h4, h5, by
              simp only [kpRead, h1, ne_eq, not_true_eq_false, if_false, h2, h3, h4, h5]⟩)))
  · exact .inl ⟨h1, by simp [kpRead, h1]⟩

/-- A read writes the debounce run and nothing else. -/
theorem kpRead_frame (s : State) :
    (kpRead s).2 = { s with lastKey := (kpRead s).2.lastKey, checkCount := (kpRead s).2.checkCount } := by
  rcases kpRead_cases s with ⟨-, h⟩ | ⟨-, -, h⟩ | ⟨-, -, -, h⟩ | ⟨-, -, -, -, -, h⟩ | ⟨-, -, -, -, -, h⟩ <;> rw [h]

/-- An insertion writes the ring and nothing else. -/
theorem kpInsert_frame (k : Byte) (s : State) :
    (kpInsert k s).2 = { s with
      kbuf := (kpInsert k s).2.kbuf, kend := (kpInsert k s).2.kend, ksize := (kpInsert k s).2.ksize } := by
  unfold kpInsert; split <;> rfl

theorem kpInsert_full {k : Byte} {s : State} (h : s.ksize = s.params.keyBufCap) : kpInsert k s = (false, s) := by
  simp only [kpInsert, if_pos h]

theorem kpInsert_room {k : Byte} {s : State} (h : s.ksize ≠ s.params.keyBufCap) :
    kpInsert k s = (true, { s with
      kbuf := s.kbuf.set s.kend k, kend := (s.kend + 1) % s.params.keyBufCap, ksize := s.ksize + 1 }) := by
  simp only [kpInsert, if_neg h]

theorem kpCapture_ok {s : State} (h : ringOk s = true) :
    kpCapture s = .ok (if (kpRead s).1 = keyNone then (kpRead s).2 else (kpInsert (kpRead s).1 (kpRead s).2).2) :=
  withRing_ok h _

theorem frontBody_frame (s : State) :
    (frontBody s).2 = { s with kbegin := (frontBody s).2.kbegin, ksize := (frontBody s).2.ksize } := by
  unfold frontBody; split <;> rfl

theorem finalBody_frame (s : State) :
    (finalBody s).2 = { s with kbegin := (finalBody s).2.kbegin, ksize := (finalBody s).2.ksize } := by
  unfold finalBody; split <;> rfl

/-- A capture writes the debounce run and the ring and nothing else. -/
theorem kpCapture_frame {s t : State} (h : kpCapture s = .ok t) :
    t = { s with
      lastKey := (kpRead s).2.lastKey, checkCount := (kpRead s).2.checkCount
      kbuf := t.kbuf, kend := t.kend, ksize := t.ksize } := by
  cases hr : ringOk s with
  | false => rw [kpCapture, withRing_corrupt hr] at h; cases h
  | true =>
    rw [kpCapture_ok hr] at h
    have hf := kpRead_frame s
    generalize hp : kpRead s = p at h hf ⊢
    obtain ⟨k, u⟩ := p
    simp only at hf h ⊢
    split at h
    · cases h; rw [hf]
    · have hi := kpInsert_frame k u
      injection h with h
      rw [h] at hi
      rw [hi, hf]

theorem frontBody_ignores : IgnoresGuard frontBody := by
  intro s g d; simp only [frontBody]; split <;> rfl

theorem finalBody_ignores : IgnoresGuard finalBody := by
  intro s g d; simp only [finalBody]; split <;> rfl

theorem kpFront_ok {s : State} (h : ringOk s = true) (hr : RoomInGuard s) :
    kpFront s = .ok ((frontBody s).1, afterBracket (frontBody s).2) := by
  rw [kpFront, withRing_ok h, bracketGet_room frontBody_ignores hr]

theorem kpFinal_ok {s : State} (h : ringOk s = true) (hr : RoomInGuard s) :
    kpFinal s = .ok ((finalBody s).1, afterBracket (finalBody s).2) := by
  rw [kpFinal, withRing_ok h, bracketGet_room finalBody_ignores hr]

theorem kpClear_ok {s : State} (h : ringOk s = true) (hr : RoomInGuard s) :
    kpClear s = .ok (afterBracket { s with kbegin := 0, kend := 0, ksize := 0 }) := by
  rw [kpClear, withRing_ok h]; exact bracket_room (fun _ _ _ => rfl) hr

/-! ## Timer -/

/-- The whole of `timerTick`. -/
theorem timerTick_cases (s : State) :
    (ringOk s = false ∧ timerTick s = .error .ringCorrupt) ∨
      ∃ t, kpCapture s = .ok t ∧
        ((t.tickCount + 1 ≠ t.params.timerEventDiv ∧ timerTick s = .ok { t with tickCount := t.tickCount + 1 }) ∨
          (t.tickCount + 1 = t.params.timerEventDiv ∧ timerTick s = evRaise .timer { t with tickCount := 0 })) := by
  cases hr : ringOk s with
  | false => exact .inl ⟨rfl, by simp only [timerTick, kpCapture, withRing_corrupt hr]⟩
  | true =>
    refine .inr ⟨_, kpCapture_ok hr, ?_⟩
    generalize ht : (if (kpRead s).1 = keyNone then (kpRead s).2 else (kpInsert (kpRead s).1 (kpRead s).2).2) = t
    have hk : kpCapture s = .ok t := by rw [kpCapture_ok hr, ht]
    by_cases hd : t.tickCount + 1 = t.params.timerEventDiv
    · exact .inr ⟨hd, by simp only [timerTick, hk, if_pos hd]⟩
    · exact .inl ⟨hd, by simp only [timerTick, hk, if_neg hd]⟩

/-! ## The handlers' pieces -/

theorem latchKey_room (k : Byte) {s : State} (h : RoomInGuard s) :
    latchKey k s = .ok (afterBracket (s.setField .keyValue k)) := bracket_room (fun _ _ _ => rfl) h

theorem latchKey_full (k : Byte) {s : State} (h : ¬ RoomInGuard s) : latchKey k s = .error .csDepthOverflow :=
  bracket_full _ h

theorem drawLine_room (n : Nat) {s : State} (h : RoomInGuard s) :
    drawLine n s = .ok ((afterBracket s).lineUpCalls [.setCursor (BitVec.ofNat 8 n) 0#8,
      .writeBytes (copyBytes s (0x07 + n * Config.lineStride) Config.lineVisible),
      .setCursor (s.field .cursorRow) (s.field .cursorCol)]) := by
  simp only [drawLine, bracketGet_room (f := drawLineBody n) (fun _ _ _ => rfl) h]; rfl

theorem slotFirst_addr (n : Fin 8) : (slotFirst n).addr = 0x57 + 8 * n.val := by
  simp only [slotFirst, Field.addr]; omega

theorem pushSlotBody_fresh {n : Fin 8} {s : State} (h : (s.field (slotFirst n)).toNat < 0x20) :
    pushSlotBody n s = (some (copyBytes s (0x57 + n.val * 8) 8),
      s.setField (slotFirst n) (s.field (slotFirst n) ||| s.params.cgramSentMark)) := by
  simp only [pushSlotBody, if_pos h]

theorem pushSlotBody_sent {n : Fin 8} {s : State} (h : ¬ (s.field (slotFirst n)).toNat < 0x20) :
    pushSlotBody n s = (none, s) := by simp only [pushSlotBody, if_neg h]

theorem pushSlotBody_ignores (n : Fin 8) : IgnoresGuard (pushSlotBody n) := by
  intro s g d
  by_cases h : (s.field (slotFirst n)).toNat < 0x20
  · rw [pushSlotBody_fresh h, pushSlotBody_fresh (s := { s with gie := g, csDepth := d }) h]; rfl
  · rw [pushSlotBody_sent h, pushSlotBody_sent (s := { s with gie := g, csDepth := d }) h]

theorem pushSlot_fresh {n : Fin 8} {s : State} (h : RoomInGuard s) (hf : (s.field (slotFirst n)).toNat < 0x20) :
    pushSlot n s = .ok { s with
      mem := s.mem.write (slotFirst n).addr (s.field (slotFirst n) ||| s.params.cgramSentMark)
      gie := decide (s.csDepth = 0)
      mainOps := .lcdCall (.writeCgram n.val (copyBytes s (0x57 + n.val * 8) 8)) :: nextSlot n ++ s.mainOps } := by
  simp only [pushSlot, bracketGet_room (pushSlotBody_ignores n) h, pushSlotBody_fresh hf]; rfl

theorem pushSlot_sent {n : Fin 8} {s : State} (h : RoomInGuard s) (hf : ¬ (s.field (slotFirst n)).toNat < 0x20) :
    pushSlot n s = .ok { s with gie := decide (s.csDepth = 0), mainOps := nextSlot n ++ s.mainOps } := by
  simp only [pushSlot, bracketGet_room (pushSlotBody_ignores n) h, pushSlotBody_sent hf]; rfl

/-! ## The interrupt that runs -/

theorem nextSource_i2c {s : State} (h : s.irqTimer = false) : nextSource s = .i2c := by
  cases hi : s.irqI2C <;> simp [nextSource, h]

theorem nextSource_timer {s : State} (hi : s.irqI2C = false) (ht : s.irqTimer = true) : nextSource s = .timer := by
  simp [nextSource, hi, ht]

theorem countArbitration_one {s : State} (h : ¬ (s.irqI2C = true ∧ s.irqTimer = true)) : countArbitration s = s := by
  unfold countArbitration
  rw [if_neg]
  simpa [Bool.and_eq_true] using h

end Sys2Proof.Machine
end

