-- ==== Sys2Proof/Laws/Exec.lean ====
section
/-! SUPPORT. What a slave event can do to the state, said once for all of them, and how a step reaches `exec`. -/

namespace Sys2Proof.Machine

theorem memRead_of_pos {s : State} {a : Nat} (h0 : a ≠ 0) (h : a < 0xA7) : memRead s a = some (s.mem.read a) := by
  unfold memRead
  rw [if_neg h0, if_pos (show a < Config.mapSize from h)]

/-- The raw read looks at `status` and one byte of memory. -/
theorem memRead_congr {s t : State} {a : Nat} (hs : s.status = t.status) (hm : s.mem.read a = t.mem.read a) :
    memRead s a = memRead t a := by simp only [memRead, hm, hs]

/-- Past address 0x00 it does not look at `status`. -/
theorem memRead_congr_pos {s t : State} {a : Nat} (h0 : a ≠ 0) (hm : s.mem.read a = t.mem.read a) :
    memRead s a = memRead t a := by
  simp only [memRead, hm, if_neg h0]

/-- The three ends of the common data write, with room in the guard. -/
theorem writeField_cases (f : Field) (side : State → State) (e : EventFlag) (b : Byte) (s : State)
    (hside : ∀ u, side u = u ∨ side u = powerOffReset u) (hr : RoomInGuard s) :
    (f.legal b = false ∧ writeField f side e b s = .ok s.raiseNack) ∨
      (f.legal b = true ∧ b = s.field f ∧ writeField f side e b s = .ok s.advance) ∨
      (f.legal b = true ∧ b ≠ s.field f ∧
        writeField f side e b s = .ok (afterBracket ((side (s.setField f b)).raiseFlag e)).advance) := by
  cases hl : f.legal b with
  | false => exact .inl ⟨rfl, writeField_illegal hl⟩
  | true =>
    by_cases hb : b = s.field f
    · exact .inr (.inl ⟨rfl, hb, writeField_unchanged hl hb⟩)
    · refine .inr (.inr ⟨rfl, hb, writeField_changed hl hb ?_⟩)
      rcases hside (s.setField f b) with h | h <;> rw [h] <;> simpa using hr

theorem powerSideEffect_cases (b : Byte) (u : State) : powerSideEffect b u = u ∨ powerSideEffect b u = powerOffReset u := by
  unfold powerSideEffect
  split
  · exact .inl rfl
  · exact .inr rfl

/-- Every slave event writes the protocol's own registers only, or stores `keyValue` and moves on, or is a common data
write of one field. -/
theorem slave_forms {i : Instr} (h : i.format = .slv) (s : State) :
    (∃ w m n x, exec i s = .next { s with writeStart := w, mapAddr := m, nack := n, tx := x } ∧
      (n = true → w = s.writeStart ∧ m = s.mapAddr ∧ (x = none ∨ x = some 0xFF#8)) ∧
      (m = s.mapAddr ∨ i = .sSetaddr m ∨
        (m = s.mapAddr + 1#8 ∧ (i.readEvent.isSome = true ∨ i.dataByte.isSome = true)))) ∨
    (∃ v x, exec i s = .next { s with
        mem := s.mem.write 0x01 v, mapAddr := s.mapAddr + 1#8, nack := false, tx := x } ∧
      (i.readEvent.isSome = true ∨ i.dataByte.isSome = true)) ∨
    (∃ f side e b, (∀ u, side u = u ∨ side u = powerOffReset u) ∧ e ≠ .timer ∧ i.dataByte = some b ∧ f ≠ .keyValue ∧
      (f ≠ .power → side = id) ∧
      exec i s = toOutcome (writeField f side e b s.beginEvent)) := by
  cases i with
  | sWaddr => exact .inl ⟨_, _, _, _, rfl, nofun, .inl rfl⟩
  | sSetaddr b => exact .inl ⟨_, _, _, _, rfl, nofun, .inr (.inl rfl)⟩
  | sSetaddrOor b => exact .inl ⟨_, _, _, _, rfl, fun _ => ⟨rfl, rfl, .inl rfl⟩, .inl rfl⟩
  | wrStatus b => exact .inl ⟨_, _, _, _, rfl, nofun, .inr (.inr ⟨rfl, .inr rfl⟩)⟩
  | wrKey b => exact .inr (.inl ⟨b, none, rfl, .inr rfl⟩)
  | wrPower b =>
    exact .inr (.inr ⟨.power, powerSideEffect b, .powerContrast, b, powerSideEffect_cases b, nofun, rfl, nofun, fun h => absurd rfl h, rfl⟩)
  | wrContrast b =>
    exact .inr (.inr ⟨.contrast, id, .powerContrast, b, fun _ => .inl rfl, nofun, rfl, nofun, fun _ => rfl, rfl⟩)
  | wrCursortype b =>
    exact .inr (.inr ⟨.cursorType, id, .cursorSet, b, fun _ => .inl rfl, nofun, rfl, nofun, fun _ => rfl, rfl⟩)
  | wrCursorrow b =>
    exact .inr (.inr ⟨.cursorRow, id, .cursorDraw, b, fun _ => .inl rfl, nofun, rfl, nofun, fun _ => rfl, rfl⟩)
  | wrCursorcol b =>
    exact .inr (.inr ⟨.cursorCol, id, .cursorDraw, b, fun _ => .inl rfl, nofun, rfl, nofun, fun _ => rfl, rfl⟩)
  | wrDisplay j b =>
    refine .inr (.inr ⟨.display j, id, lineFlag j, b, fun _ => .inl rfl, ?_, rfl, nofun, fun _ => rfl, rfl⟩)
    unfold lineFlag; split <;> nofun
  | wrCgram j b =>
    exact .inr (.inr ⟨.cgram j, id, .setCgram, b, fun _ => .inl rfl, nofun, rfl, nofun, fun _ => rfl, rfl⟩)
  | wrIcon j b =>
    exact .inr (.inr ⟨.icon j, id, .drawIcon, b, fun _ => .inl rfl, nofun, rfl, nofun, fun _ => rfl, rfl⟩)
  | wrOor b => exact .inl ⟨_, _, _, _, rfl, fun _ => ⟨rfl, rfl, .inl rfl⟩, .inl rfl⟩
  | rdKey k => exact .inr (.inl ⟨keyNone, some (s.field .keyValue), rfl, .inl rfl⟩)
  | rdOor k => exact .inl ⟨_, _, _, _, rfl, fun _ => ⟨rfl, rfl, .inr rfl⟩, .inl rfl⟩
  | rdStatus k | rdPower k | rdContrast k | rdCursortype k | rdCursorrow k | rdCursorcol k =>
    exact .inl ⟨_, _, _, _, rfl, nofun, .inr (.inr ⟨rfl, .inl rfl⟩)⟩
  | rdDisplay k j | rdCgram k j | rdIcon k j => exact .inl ⟨_, _, _, _, rfl, nofun, .inr (.inr ⟨rfl, .inl rfl⟩)⟩
  | sRnack | sBuserr => exact .inl ⟨_, _, _, _, rfl, nofun, .inl rfl⟩
  | _ => cases h

/-! ## How a step reaches `exec` -/

theorem step_deliver {s : State} (h : canDeliver s = true) : step s = deliver s := by simp [step, nextStep, h]

theorem step_main {s : State} (h : canDeliver s = false) (ht : s.turns = []) : step s = mainStep s := by
  simp [step, nextStep, h, ht]

theorem step_turn {s : State} {t : Turn} {ts : List Turn} (h : canDeliver s = false) (ht : s.turns = t :: ts) :
    step s = takeTurn t { s with turns := ts } := by simp [step, nextStep, h, ht]

theorem canDeliver_iff (s : State) :
    canDeliver s = true ↔ s.gie = true ∧ s.inIsr = false ∧ (s.irqI2C = true ∨ s.irqTimer = true) := by
  simp [canDeliver, and_assoc]

theorem OnlyMain.canDeliver_eq {s : State} (h : OnlyMain s) : canDeliver s = false := by
  obtain ⟨-, h1, h2, -⟩ := h
  simp [canDeliver, h1, h2]

/-- `MAIN` alone, inside an iteration: its next piece. -/
theorem OnlyMain.step_eq {s : State} (h : OnlyMain s) {op : MainOp} {rest : List MainOp} (hm : s.mainOps = op :: rest) :
    step s = runMainOp op { s with mainOps := rest } := by
  rw [step_main h.canDeliver_eq h.2.2.2]
  have hb := h.1
  unfold mainStep loopStep
  split <;> simp_all

/-- A run of the host's core, one step unrolled. -/
theorem run_succ {s t : State} {n : Nat} (h : step s = .next t) : Host.Core.run core (n + 1) s = Host.Core.run core n t := by
  have h' : core.step s = .next t := h
  have e := Host.Core.run.eq_2 core s n
  rw [h'] at e
  exact e

/-- A run of the host's core, cut in two. -/
theorem run_add {s t : State} {m n : Nat} (h : Host.Core.run core m s = .next t) :
    Host.Core.run core (m + n) s = Host.Core.run core n t := by
  induction m generalizing s with
  | zero => cases h; rw [Nat.zero_add]
  | succ m ih =>
    rw [Nat.add_right_comm]
    cases hs : step s with
    | next u => rw [run_succ hs] at h ⊢; exact ih h
    | fault e =>
      have e' := Host.Core.run.eq_2 core s m
      rw [show core.step s = .fault e from hs] at e'
      rw [e'] at h; cases h
    | refused r =>
      have e' := Host.Core.run.eq_2 core s m
      rw [show core.step s = .refused r from hs] at e'
      rw [e'] at h; cases h

/-- What calls made in a row leave. -/
theorem foldl_makeCall (cs : List LcdCall) (s : State) : cs.foldl State.makeCall s = { s with
    panelPin := cs.foldl (fun b c => c.panelAfter b) s.panelPin
    backlightPin := cs.foldl (fun b c => c.backlightAfter b) s.backlightPin
    lcd := s.lcd ++ cs } := by
  induction cs generalizing s with
  | nil => simp
  | cons c cs ih => rw [List.foldl_cons, ih]; simp [State.makeCall]

/-- `MAIN` alone makes the calls a handler lined up, in order, one a step. -/
theorem OnlyMain.run_calls {s : State} (h : OnlyMain s) (cs : List LcdCall) {rest : List MainOp}
    (hm : s.mainOps = cs.map .lcdCall ++ rest) :
    Host.Core.run core cs.length s = .next ({ s with
      mainOps := rest
      panelPin := cs.foldl (fun b c => c.panelAfter b) s.panelPin
      backlightPin := cs.foldl (fun b c => c.backlightAfter b) s.backlightPin
      lcd := s.lcd ++ cs } : State) := by
  suffices hr : Host.Core.run core cs.length s = .next (cs.foldl State.makeCall { s with mainOps := rest }) from
    hr.trans (congrArg Host.Outcome.next (foldl_makeCall cs { s with mainOps := rest }))
  induction cs generalizing s with
  | nil => cases hm; rfl
  | cons c cs ih =>
    have hs : step s = .next (State.makeCall { s with mainOps := cs.map .lcdCall ++ rest } c) := h.step_eq hm
    rw [List.length_cons, run_succ hs]
    exact ih (s := State.makeCall { s with mainOps := cs.map .lcdCall ++ rest } c) h rfl

/-- What the decoder reads from a pending event is a slave event with its operands in range. -/
theorem decode_slv {ws : List Byte} {i : Instr} (h : decode ws = .ok i) : i.wf = true ∧ i.format = .slv := by
  obtain ⟨lo, hi, d, -, -, h⟩ := decode_ok h
  refine decodeEvent_cases (P := fun i => i.wf = true ∧ i.format = .slv) h ?_ ?_ ?_ ?_ ?_ ?_ ?_
  · exact fun _ _ => ⟨rfl, rfl⟩
  · intro b _ _ _
    exact decodeAddress_cases (P := fun i => i.wf = true ∧ i.format = .slv) b (fun h => ⟨decide_eq_true h, rfl⟩)
      (fun h => ⟨decide_eq_true h, rfl⟩)
  · intro b _ _ _
    apply decodeWrite_cases (P := fun i => i.wf = true ∧ i.format = .slv) <;> intros <;> exact ⟨rfl, rfl⟩
  · intros
    apply decodeRead_cases (P := fun i => i.wf = true ∧ i.format = .slv) <;> intros <;> exact ⟨rfl, rfl⟩
  · intros
    apply decodeRead_cases (P := fun i => i.wf = true ∧ i.format = .slv) <;> intros <;> exact ⟨rfl, rfl⟩
  · exact fun _ _ => ⟨rfl, rfl⟩
  · exact fun _ _ => ⟨rfl, rfl⟩

/-- What a pending event's bytes decode to depends on its kind, its byte, `writeStart` and the cursor. -/
theorem decode_fetch (s : State) :
    decode (fetchBytes s) = decodeEvent s.i2cEvent.kind.toNat s.writeStart s.mapAddr.toNat
      (if s.i2cEvent.kind.toNat = 1 then some s.i2cEvent.data else none) := by
  have hk : s.i2cEvent.kind.toNat < 8 := s.i2cEvent.kind.isLt
  have hsel : ∀ d, decodeSelector (BitVec.ofNat 8 s.mapAddr.toNat)
      (BitVec.ofNat 8 (s.i2cEvent.kind.toNat * 2 + s.writeStart.toNat)) d =
        decodeEvent s.i2cEvent.kind.toNat s.writeStart s.mapAddr.toNat d := by
    intro d
    generalize s.i2cEvent.kind.toNat = n at hk
    unfold decodeSelector
    have hb : s.writeStart.toNat ≤ 1 := Bool.toNat_le _
    have hn : (BitVec.ofNat 8 (n * 2 + s.writeStart.toNat)).toNat = n * 2 + s.writeStart.toNat := by
      simp only [BitVec.toNat_ofNat]; omega
    rw [if_pos (by omega), hn]
    congr 1
    · omega
    · clear hn hb
      interval_cases n <;> cases s.writeStart <;> rfl
    · simp
  unfold fetchBytes selectorBytes
  by_cases h1 : s.i2cEvent.kind.toNat = 1
  · rw [if_pos h1, if_pos h1]; exact hsel _
  · rw [if_neg h1, if_neg h1]; exact hsel _

end Sys2Proof.Machine
end

