-- ==== Sys2Proof/Laws/PerInstr.lean ====
section
/-! SUPPORT. Statements about every instruction as syntax, one lemma per constructor. -/

namespace Sys2Proof.Laws

/-- The slave events have an encoding, two selector bytes and the data byte if there is one; no other operation has one
(`spec/30_encoding.md` R65, R75). -/
def EncodingShape.Statement (i : Instr) : Prop :=
  match encode i with
  | some ws => i.format = .slv ∧ ws.length = 2 + i.dataByte.toList.length
  | none => i.format ≠ .slv ∧ i.dataByte = none

theorem EncodingShape.sWaddr : EncodingShape.Statement .sWaddr := ⟨rfl, rfl⟩
theorem EncodingShape.sSetaddr (b : Byte) : EncodingShape.Statement (.sSetaddr b) := ⟨rfl, rfl⟩
theorem EncodingShape.sSetaddrOor (b : Byte) : EncodingShape.Statement (.sSetaddrOor b) := ⟨rfl, rfl⟩
theorem EncodingShape.wrStatus (b : Byte) : EncodingShape.Statement (.wrStatus b) := ⟨rfl, rfl⟩
theorem EncodingShape.wrKey (b : Byte) : EncodingShape.Statement (.wrKey b) := ⟨rfl, rfl⟩
theorem EncodingShape.wrPower (b : Byte) : EncodingShape.Statement (.wrPower b) := ⟨rfl, rfl⟩
theorem EncodingShape.wrContrast (b : Byte) : EncodingShape.Statement (.wrContrast b) := ⟨rfl, rfl⟩
theorem EncodingShape.wrCursortype (b : Byte) : EncodingShape.Statement (.wrCursortype b) := ⟨rfl, rfl⟩
theorem EncodingShape.wrCursorrow (b : Byte) : EncodingShape.Statement (.wrCursorrow b) := ⟨rfl, rfl⟩
theorem EncodingShape.wrCursorcol (b : Byte) : EncodingShape.Statement (.wrCursorcol b) := ⟨rfl, rfl⟩
theorem EncodingShape.wrDisplay (i : Fin 80) (b : Byte) : EncodingShape.Statement (.wrDisplay i b) := ⟨rfl, rfl⟩
theorem EncodingShape.wrCgram (i : Fin 64) (b : Byte) : EncodingShape.Statement (.wrCgram i b) := ⟨rfl, rfl⟩
theorem EncodingShape.wrIcon (i : Fin 16) (b : Byte) : EncodingShape.Statement (.wrIcon i b) := ⟨rfl, rfl⟩
theorem EncodingShape.wrOor (b : Byte) : EncodingShape.Statement (.wrOor b) := ⟨rfl, rfl⟩
theorem EncodingShape.rdStatus (k : ReadEvent) : EncodingShape.Statement (.rdStatus k) := by
  cases k <;> exact ⟨rfl, rfl⟩
theorem EncodingShape.rdKey (k : ReadEvent) : EncodingShape.Statement (.rdKey k) := by
  cases k <;> exact ⟨rfl, rfl⟩
theorem EncodingShape.rdPower (k : ReadEvent) : EncodingShape.Statement (.rdPower k) := by
  cases k <;> exact ⟨rfl, rfl⟩
theorem EncodingShape.rdContrast (k : ReadEvent) : EncodingShape.Statement (.rdContrast k) := by
  cases k <;> exact ⟨rfl, rfl⟩
theorem EncodingShape.rdCursortype (k : ReadEvent) : EncodingShape.Statement (.rdCursortype k) := by
  cases k <;> exact ⟨rfl, rfl⟩
theorem EncodingShape.rdCursorrow (k : ReadEvent) : EncodingShape.Statement (.rdCursorrow k) := by
  cases k <;> exact ⟨rfl, rfl⟩
theorem EncodingShape.rdCursorcol (k : ReadEvent) : EncodingShape.Statement (.rdCursorcol k) := by
  cases k <;> exact ⟨rfl, rfl⟩
theorem EncodingShape.rdDisplay (k : ReadEvent) (i : Fin 80) : EncodingShape.Statement (.rdDisplay k i) := by
  cases k <;> exact ⟨rfl, rfl⟩
theorem EncodingShape.rdCgram (k : ReadEvent) (i : Fin 64) : EncodingShape.Statement (.rdCgram k i) := by
  cases k <;> exact ⟨rfl, rfl⟩
theorem EncodingShape.rdIcon (k : ReadEvent) (i : Fin 16) : EncodingShape.Statement (.rdIcon k i) := by
  cases k <;> exact ⟨rfl, rfl⟩
theorem EncodingShape.rdOor (k : ReadEvent) : EncodingShape.Statement (.rdOor k) := by
  cases k <;> exact ⟨rfl, rfl⟩
theorem EncodingShape.sRnack : EncodingShape.Statement .sRnack := ⟨rfl, rfl⟩
theorem EncodingShape.sBuserr : EncodingShape.Statement .sBuserr := ⟨rfl, rfl⟩
theorem EncodingShape.powerOffReset : EncodingShape.Statement .powerOffReset := ⟨nofun, rfl⟩
theorem EncodingShape.evRaise (f : EventFlag) : EncodingShape.Statement (.evRaise f) := ⟨nofun, rfl⟩
theorem EncodingShape.evDrain : EncodingShape.Statement .evDrain := ⟨nofun, rfl⟩
theorem EncodingShape.mlPoll : EncodingShape.Statement .mlPoll := ⟨nofun, rfl⟩
theorem EncodingShape.dspTimer : EncodingShape.Statement .dspTimer := ⟨nofun, rfl⟩
theorem EncodingShape.dspPowerContrast : EncodingShape.Statement .dspPowerContrast := ⟨nofun, rfl⟩
theorem EncodingShape.dspCursorSet : EncodingShape.Statement .dspCursorSet := ⟨nofun, rfl⟩
theorem EncodingShape.dspCursorDraw : EncodingShape.Statement .dspCursorDraw := ⟨nofun, rfl⟩
theorem EncodingShape.dspDrawLine0 : EncodingShape.Statement .dspDrawLine0 := ⟨nofun, rfl⟩
theorem EncodingShape.dspDrawLine1 : EncodingShape.Statement .dspDrawLine1 := ⟨nofun, rfl⟩
theorem EncodingShape.dspSetCgram : EncodingShape.Statement .dspSetCgram := ⟨nofun, rfl⟩
theorem EncodingShape.dspDrawIcon : EncodingShape.Statement .dspDrawIcon := ⟨nofun, rfl⟩
theorem EncodingShape.kpInit (cfg : KpCfg) : EncodingShape.Statement (.kpInit cfg) := ⟨nofun, rfl⟩
theorem EncodingShape.kpScan : EncodingShape.Statement .kpScan := ⟨nofun, rfl⟩
theorem EncodingShape.kpRead : EncodingShape.Statement .kpRead := ⟨nofun, rfl⟩
theorem EncodingShape.kpInsert (key : Byte) : EncodingShape.Statement (.kpInsert key) := ⟨nofun, rfl⟩
theorem EncodingShape.kpCapture : EncodingShape.Statement .kpCapture := ⟨nofun, rfl⟩
theorem EncodingShape.kpFront : EncodingShape.Statement .kpFront := ⟨nofun, rfl⟩
theorem EncodingShape.kpFinal : EncodingShape.Statement .kpFinal := ⟨nofun, rfl⟩
theorem EncodingShape.kpClear : EncodingShape.Statement .kpClear := ⟨nofun, rfl⟩
theorem EncodingShape.csBegin : EncodingShape.Statement .csBegin := ⟨nofun, rfl⟩
theorem EncodingShape.csEnd : EncodingShape.Statement .csEnd := ⟨nofun, rfl⟩
theorem EncodingShape.tick : EncodingShape.Statement .tick := ⟨nofun, rfl⟩
theorem EncodingShape.reset : EncodingShape.Statement .reset := ⟨nofun, rfl⟩

end Sys2Proof.Laws
end

