-- ==== Sys2Proof/Laws/Step.lean ====
section
/-! SUPPORT. What an answered next state looks like, said once for every operation that is no slave event, and the
inversion of a step: everything a step can do. -/

namespace Sys2Proof.Machine

/-! ## Next states of the operations -/

theorem toOutcome_next {x : Except Fault State} {t : State} (h : toOutcome x = .next t) : x = .ok t := by
  cases x with
  | error e => cases h
  | ok s => cases h; rfl

theorem toOutcomeWith_next {α : Type} {r : α → CallResult} {x : Except Fault (α × State)} {t : State}
    (h : toOutcomeWith r x = .next t) : ∃ a u, x = .ok (a, u) ∧ t = { u with result := r a } := by
  cases x with
  | error e => cases h
  | ok p => obtain ⟨a, u⟩ := p; cases h; exact ⟨a, u, rfl, rfl⟩

theorem bracketGet_next {α : Type} {f : State → α × State} (hf : IgnoresGuard f) {s : State} {r : α × State}
    (h : bracketGet f s = .ok r) : r = ((f s).1, afterBracket (f s).2) := by
  by_cases hr : RoomInGuard s
  · rw [bracketGet_room hf hr] at h; cases h; rfl
  · rw [bracketGet_full f hr] at h; cases h

theorem withRing_next {α : Type} {s : State} {x : Except Fault α} {a : α} (h : withRing s x = .ok a) :
    ringOk s = true ∧ x = .ok a := by
  cases hr : ringOk s with
  | false => rw [withRing_corrupt hr] at h; cases h
  | true => rw [withRing_ok hr] at h; exact ⟨rfl, h⟩

theorem evRaise_next {f : EventFlag} {s t : State} (h : evRaise f s = .ok t) : t = afterBracket (s.raiseFlag f) := by
  by_cases hr : RoomInGuard s
  · rw [evRaise_room f hr] at h; cases h; rfl
  · rw [evRaise_full f hr] at h; cases h

theorem evDrain_next {s : State} {r : BitVec 8 × State} (h : evDrain s = .ok r) : r = (s.evMask, afterBracket s.drainFlags) :=
  bracketGet_next (fun _ _ _ => rfl) h

theorem latchKey_next {k : Byte} {s t : State} (h : latchKey k s = .ok t) : t = afterBracket (s.setField .keyValue k) := by
  by_cases hr : RoomInGuard s
  · rw [latchKey_room k hr] at h; cases h; rfl
  · rw [latchKey_full k hr] at h; cases h

/-- A turn of the glyph loop: the guard, the pieces still to come, and at most one byte of memory. -/
theorem pushSlot_next {n : Fin 8} {s t : State} (h : pushSlot n s = .ok t) :
    (∃ cs, t = State.lineUpCalls { s with
      mem := t.mem, gie := decide (s.csDepth = 0), mainOps := nextSlot n ++ s.mainOps } cs) ∧
      (t.mem = s.mem ∨ t.mem = s.mem.write (slotFirst n).addr (s.field (slotFirst n) ||| s.params.cgramSentMark)) := by
  by_cases hr : RoomInGuard s
  · by_cases hf : (s.field (slotFirst n)).toNat < 0x20
    · rw [pushSlot_fresh hr hf] at h; cases h; exact ⟨⟨[_], rfl⟩, .inr rfl⟩
    · rw [pushSlot_sent hr hf] at h; cases h; exact ⟨⟨[], rfl⟩, .inl rfl⟩
  · rw [pushSlot, bracketGet_full _ hr] at h; cases h

theorem evDrain_exec_next {s t : State} (h : exec .evDrain s = .next t) :
    t = { afterBracket s.drainFlags with result := .mask s.evMask } := by
  obtain ⟨a, u, hx, rfl⟩ := toOutcomeWith_next h
  cases evDrain_next hx; rfl

theorem mlPoll_next {s t : State} (h : exec .mlPoll s = .next t) :
    t = { afterBracket s.drainFlags with
      result := .mask s.evMask, mainOps := (flagsOf s.evMask).map .handler ++ s.mainOps } := by
  change execMlPoll s = _ at h
  unfold execMlPoll at h
  cases he : evDrain s with
  | error e => rw [he] at h; cases h
  | ok p => rw [he] at h; cases evDrain_next he; cases h; rfl

theorem dspTimer_next {s t : State} (h : exec .dspTimer s = .next t) :
    ringOk s = true ∧ t = { afterBracket (finalBody s).2 with
      mainOps := (if (finalBody s).1 = keyNone then [] else [.latchKey (finalBody s).1]) ++ s.mainOps } := by
  change execDspTimer s = _ at h
  unfold execDspTimer at h
  cases he : kpFinal s with
  | error e => rw [he] at h; cases h
  | ok p =>
    obtain ⟨hr, hb⟩ := withRing_next he
    rw [he] at h
    cases bracketGet_next finalBody_ignores hb
    cases h
    refine ⟨hr, ?_⟩
    have hm : (finalBody s).2.mainOps = s.mainOps := by unfold finalBody; split <;> rfl
    simp only [afterBracket, hm]

/-- The handlers that only read the register map: their bracket lines up calls. -/
theorem display_next {i : Instr} {s t : State}
    (hi : i ∈ [Instr.dspPowerContrast, .dspCursorSet, .dspCursorDraw, .dspDrawLine0, .dspDrawLine1, .dspDrawIcon])
    (h : exec i s = .next t) : ∃ cs, t = (afterBracket s).lineUpCalls cs := by
  simp only [List.mem_cons, List.not_mem_nil, or_false] at hi
  rcases hi with rfl | rfl | rfl | rfl | rfl | rfl
  · change execDspPowerContrast s = _ at h
    unfold execDspPowerContrast at h
    split at h
    · cases h
    · next he => cases bracketGet_next (fun _ _ _ => rfl) he; cases h; exact ⟨_, rfl⟩
  · change execDspCursorSet s = _ at h
    unfold execDspCursorSet at h
    split at h
    · cases h
    · next he => cases bracketGet_next (fun _ _ _ => rfl) he; cases h; exact ⟨_, rfl⟩
  · change execDspCursorDraw s = _ at h
    unfold execDspCursorDraw at h
    split at h
    · cases h
    · next he => cases bracketGet_next (fun _ _ _ => rfl) he; cases h; exact ⟨_, rfl⟩
  · have h' := toOutcome_next (x := drawLine 0 s) h
    unfold drawLine at h'
    split at h'
    · cases h'
    · next he => cases bracketGet_next (fun _ _ _ => rfl) he; cases h'; exact ⟨_, rfl⟩
  · have h' := toOutcome_next (x := drawLine 1 s) h
    unfold drawLine at h'
    split at h'
    · cases h'
    · next he => cases bracketGet_next (fun _ _ _ => rfl) he; cases h'; exact ⟨_, rfl⟩
  · change execDspDrawIcon s = _ at h
    unfold execDspDrawIcon at h
    split at h
    · cases h
    · next he => cases bracketGet_next (fun _ _ _ => rfl) he; cases h; exact ⟨_, rfl⟩

theorem kpInit_next {cfg : KpCfg} {s t : State} (h : exec (.kpInit cfg) s = .next t) :
    s.boot = .kpInit ∧ t = { kpInit cfg s with boot := .masterInit } := by
  change execKpInit cfg s = _ at h
  unfold execKpInit at h
  split at h
  · next hb => cases h; exact ⟨hb, rfl⟩
  · cases h

theorem kpScan_next {s t : State} (h : exec .kpScan s = .next t) :
    ringOk s = true ∧ t = { s with result := .key (kpScan s.keys) } := by
  obtain ⟨a, u, hx, rfl⟩ := toOutcomeWith_next h
  obtain ⟨hr, hx⟩ := withRing_next hx
  cases hx; exact ⟨hr, rfl⟩

theorem kpRead_next {s t : State} (h : exec .kpRead s = .next t) :
    ringOk s = true ∧ t = { (kpRead s).2 with result := .key (kpRead s).1 } := by
  obtain ⟨a, u, hx, rfl⟩ := toOutcomeWith_next h
  obtain ⟨hr, hx⟩ := withRing_next hx
  injection hx with hx
  rw [hx]; exact ⟨hr, rfl⟩

theorem kpInsert_next {k : Byte} {s t : State} (h : exec (.kpInsert k) s = .next t) :
    ringOk s = true ∧ t = { (kpInsert k s).2 with result := .inserted (kpInsert k s).1 } := by
  obtain ⟨a, u, hx, rfl⟩ := toOutcomeWith_next h
  obtain ⟨hr, hx⟩ := withRing_next hx
  injection hx with hx
  rw [hx]; exact ⟨hr, rfl⟩

theorem kpFront_next {s t : State} (h : exec .kpFront s = .next t) :
    ringOk s = true ∧ t = { afterBracket (frontBody s).2 with result := .key (frontBody s).1 } := by
  obtain ⟨a, u, hx, rfl⟩ := toOutcomeWith_next h
  obtain ⟨hr, hx⟩ := withRing_next hx
  cases bracketGet_next frontBody_ignores hx; exact ⟨hr, rfl⟩

theorem kpFinal_next {s t : State} (h : exec .kpFinal s = .next t) :
    ringOk s = true ∧ t = { afterBracket (finalBody s).2 with result := .key (finalBody s).1 } := by
  obtain ⟨a, u, hx, rfl⟩ := toOutcomeWith_next h
  obtain ⟨hr, hx⟩ := withRing_next hx
  cases bracketGet_next finalBody_ignores hx; exact ⟨hr, rfl⟩

theorem kpClear_next {s t : State} (h : exec .kpClear s = .next t) :
    ringOk s = true ∧ t = afterBracket { s with kbegin := 0, kend := 0, ksize := 0 } := by
  obtain ⟨hr, hx⟩ := withRing_next (toOutcome_next (x := kpClear s) h)
  refine ⟨hr, ?_⟩
  by_cases hroom : RoomInGuard s
  · rw [bracket_room (fun _ _ _ => rfl) hroom] at hx; cases hx; rfl
  · rw [bracket_full _ hroom] at hx; cases hx

/-- A tick writes the debounce run, the ring and the divider, and on a raise the event mask, `status` and `gie`. -/
theorem tick_next {s t : State} (h : exec .tick s = .next t) :
    ∃ u, kpCapture s = .ok u ∧
      ((s.tickCount + 1 ≠ s.params.timerEventDiv ∧ t = { u with tickCount := s.tickCount + 1 }) ∨
        (s.tickCount + 1 = s.params.timerEventDiv ∧ t = afterBracket (State.raiseFlag { u with tickCount := 0 } .timer))) := by
  have h' := toOutcome_next (x := timerTick s) h
  rcases timerTick_cases s with ⟨-, e⟩ | ⟨u, hu, h2⟩
  · rw [e] at h'; cases h'
  · have hf := kpCapture_frame hu
    have htc : u.tickCount = s.tickCount := by rw [hf]
    have hdv : u.params = s.params := by rw [hf]
    refine ⟨u, hu, ?_⟩
    rcases h2 with ⟨h3, e⟩ | ⟨h3, e⟩
    · rw [e] at h'; cases h'; rw [htc, hdv] at h3
      exact .inl ⟨h3, by rw [htc]⟩
    · rw [e] at h'; rw [htc, hdv] at h3
      exact .inr ⟨h3, evRaise_next h'⟩

/-! ## The inversion of a step -/

/-- Everything a step from `s` to a next state `t` can be. -/
inductive StepCase (s t : State) : Prop
  /-- A slave event was delivered. -/
  | slave (i : Instr) (n : Nat) (u : State) (hd : canDeliver s = true) (hi : s.irqI2C = true)
      (hu : s.i2cEvent.unit = .slave) (hdec : decode (fetchBytes s) = .ok i)
      (he : exec i { s with inIsr := true, irqI2C := false, arbCount := n } = .next u)
      (ht : t = { u with inIsr := false })
  /-- A tick was delivered. -/
  | tick (n : Nat) (u : State) (hd : canDeliver s = true) (hi : s.irqTimer = true)
      (he : exec .tick { s with inIsr := true, irqTimer := false, arbCount := n } = .next u)
      (ht : t = { u with inIsr := false })
  /-- The boot's `KP_INIT`. -/
  | kpInit (ts : List Turn) (hd : canDeliver s = false) (hb : s.boot = .kpInit)
      (ht : t = { Machine.kpInit s.params.pinMap s with turns := ts, boot := .masterInit })
  /-- A later stage of the boot. -/
  | boot (ts : List Turn) (b : BootStage) (hd : canDeliver s = false) (hb : s.boot ≠ .running) (hk : s.boot ≠ .kpInit)
      (ht : (b ≠ .running ∧ b ≠ .kpInit ∧ t = { s with turns := ts, boot := b }) ∨
        t = { s with turns := ts, boot := .running, gie := true })
  /-- The main loop's `ML_POLL`. -/
  | poll (ts : List Turn) (hd : canDeliver s = false) (hb : s.boot = .running) (hm : s.mainOps = [])
      (he : exec .mlPoll { s with turns := ts } = .next t)
  /-- A handler of the main loop. -/
  | handler (ts : List Turn) (f : EventFlag) (rest : List MainOp) (hd : canDeliver s = false) (hb : s.boot = .running)
      (hm : s.mainOps = .handler f :: rest) (he : exec f.handler { s with turns := ts, mainOps := rest } = .next t)
  /-- The store of the key latch. -/
  | latch (ts : List Turn) (k : Byte) (rest : List MainOp) (hd : canDeliver s = false) (hb : s.boot = .running)
      (hm : s.mainOps = .latchKey k :: rest)
      (ht : t = afterBracket (State.setField { s with turns := ts, mainOps := rest } .keyValue k))
  /-- A turn of the glyph loop. -/
  | push (ts : List Turn) (n : Fin 8) (rest : List MainOp) (hd : canDeliver s = false) (hb : s.boot = .running)
      (hm : s.mainOps = .pushSlot n :: rest) (he : pushSlot n { s with turns := ts, mainOps := rest } = .ok t)
  /-- A pin assignment or LCD call of the handler that waits. -/
  | lcdCall (ts : List Turn) (c : LcdCall) (rest : List MainOp) (hd : canDeliver s = false) (hb : s.boot = .running)
      (hm : s.mainOps = .lcdCall c :: rest) (ht : t = State.makeCall { s with turns := ts, mainOps := rest } c)
  /-- An operation of another caller. -/
  | call (ts : List Turn) (c : MainCall) (hd : canDeliver s = false) (hb : s.boot = .running)
      (hs : s.turns = .call c :: ts) (he : exec c.instr { s with turns := ts } = .next t)
  /-- A restart. -/
  | restart (ts : List Turn) (hd : canDeliver s = false) (hs : s.turns = .restart :: ts)
      (he : exec .reset { s with turns := ts } = .next t)
  /-- An arrival: an event or a period becomes pending, or the keys change. -/
  | arrival (hd : canDeliver s = false)
      (ht : t = { s with
        turns := t.turns, keys := t.keys, bus := t.bus, irqI2C := t.irqI2C, i2cEvent := t.i2cEvent
        irqTimer := t.irqTimer })
      (hi : s.irqI2C = true → t.irqI2C = true ∧ t.i2cEvent = s.i2cEvent) (hp : s.irqTimer = true → t.irqTimer = true)

/-- `MAIN`'s step. -/
theorem mainStep_next {s t : State} (ts : List Turn) (hd : canDeliver s = false)
    (h : mainStep { s with turns := ts } = .next t) : StepCase s t := by
  unfold mainStep at h
  split at h
  · next hb =>
    obtain ⟨-, ht⟩ := kpInit_next h
    exact .kpInit ts hd hb ht
  · next hb => cases h; exact .boot ts .slaveInit hd (by simp_all) (by simp_all) (.inl ⟨nofun, nofun, rfl⟩)
  · next hb => cases h; exact .boot ts .timerStart hd (by simp_all) (by simp_all) (.inl ⟨nofun, nofun, rfl⟩)
  · next hb => cases h; exact .boot ts .enable hd (by simp_all) (by simp_all) (.inl ⟨nofun, nofun, rfl⟩)
  · next hb => cases h; exact .boot ts .running hd (by simp_all) (by simp_all) (.inr rfl)
  · next hb =>
    unfold loopStep at h
    split at h
    · next hm => exact .poll ts hd hb hm h
    · next op rest hm =>
      cases op with
      | handler f => exact .handler ts f rest hd hb hm h
      | latchKey k => exact .latch ts k rest hd hb hm (latchKey_next (toOutcome_next h))
      | pushSlot n => exact .push ts n rest hd hb hm (toOutcome_next h)
      | lcdCall c => cases h; exact .lcdCall ts c rest hd hb hm rfl

theorem returning_next {o : Host.Outcome State Fault Refusal} {t : State} (h : returning o = .next t) :
    ∃ u, o = .next u ∧ t = { u with inIsr := false } := by
  cases o with
  | next u => cases h; exact ⟨u, rfl, rfl⟩
  | fault e => cases h
  | refused r => cases h

theorem countArbitration_eq (s : State) : ∃ n, countArbitration s = { s with arbCount := n } := by
  unfold countArbitration
  split
  · exact ⟨_, rfl⟩
  · exact ⟨s.arbCount, rfl⟩

/-- The inversion: a step that answers a next state is one of the cases. -/
theorem step_next {s t : State} (h : step s = .next t) : StepCase s t := by
  cases hd : canDeliver s with
  | true =>
    rw [step_deliver hd] at h
    obtain ⟨n, hn⟩ := countArbitration_eq s
    unfold deliver at h
    have hc := (canDeliver_iff s).1 hd
    split at h
    · next hs =>
      rw [hn] at h
      obtain ⟨u, hx, ht⟩ := returning_next h
      have hi : s.irqI2C = true := by
        cases hi : s.irqI2C
        · cases htm : s.irqTimer <;> simp_all [nextSource]
        · rfl
      unfold slaveCallback at hx
      split at hx
      · cases hx
      · next hu =>
        split at hx
        · next i hdec => exact .slave i n u hd hi hu hdec hx ht
        · cases hx
    · next hs =>
      rw [hn] at h
      obtain ⟨u, hx, ht⟩ := returning_next h
      have hi : s.irqTimer = true := by
        cases htm : s.irqTimer
        · simp [nextSource_i2c htm] at hs
        · rfl
      exact .tick n u hd hi hx ht
  | false =>
    cases hts : s.turns with
    | nil =>
      rw [step_main hd hts] at h
      exact mainStep_next s.turns hd h
    | cons x ts =>
      rw [step_turn hd hts] at h
      cases x with
      | main => exact mainStep_next ts hd h
      | call c =>
        unfold takeTurn at h
        dsimp only at h
        split at h
        · next hb => exact .call ts c hd hb hts h
        · exact mainStep_next (.call c :: ts) hd h
      | bus =>
        cases h
        refine .arrival hd ?_ ?_ ?_ <;> unfold busTurn <;> split <;> try split
        all_goals first | rfl | simp_all
      | period =>
        cases h
        refine .arrival hd ?_ ?_ ?_ <;> unfold periodTurn <;> split
        all_goals first | rfl | simp_all
      | keys m => cases h; exact .arrival hd rfl (fun h => ⟨h, rfl⟩) (fun h => h)
      | restart => exact .restart ts hd hts h

end Sys2Proof.Machine
end

