-- ==== Sys2Proof/Tests/Slice0.lean ====
section
/-! SUPPORT. Our own checks: the WellFormed smoke, one word per row of the opcode table written out from its encoding,
one or two small steps per operation with the results of `spec/95_test_vectors.md`, and a witness for the hypotheses of
each statement. -/

namespace Sys2Proof.Tests

open Sys2Proof.Machine

/-! ## WellFormed refuses ill-formed operands -/

theorem test_wf_setaddr_past_the_map : (Instr.sSetaddr 0xA7#8).wf = false := by decide
theorem test_wf_setaddr_last : (Instr.sSetaddr 0xA6#8).wf = true := by decide
theorem test_wf_setaddrOor_inside_the_map : (Instr.sSetaddrOor 0xA6#8).wf = false := by decide
theorem test_wf_setaddrOor_first : (Instr.sSetaddrOor 0xA7#8).wf = true := by decide
theorem test_wf_insert_no_key_code : (Instr.kpInsert 16#8).wf = false := by decide
theorem test_wf_insert_last_key_code : (Instr.kpInsert 15#8).wf = true := by decide

/-! ## Decoding: the selector of `spec/30_encoding.md` R65 written out bit by bit

First byte: the cursor. Second byte: four zeros, the three kind bits, `writeStart`. Then the received byte, if any. -/

theorem test_decode_sWaddr : decode [0b00010000#8, 0b00000001#8] = .ok (.sWaddr) := by rfl
theorem test_decode_sSetaddr : decode [0b00010000#8, 0b00000011#8, 0b10100110#8] = .ok (.sSetaddr 0xA6#8) := by rfl
theorem test_decode_sSetaddrOor : decode [0b00010000#8, 0b00000011#8, 0b10100111#8] = .ok (.sSetaddrOor 0xA7#8) := by rfl
theorem test_decode_wrStatus : decode [0b00000000#8, 0b00000010#8, 0b01010101#8] = .ok (.wrStatus 0x55#8) := by rfl
theorem test_decode_wrKey : decode [0b00000001#8, 0b00000010#8, 0b01010101#8] = .ok (.wrKey 0x55#8) := by rfl
theorem test_decode_wrPower : decode [0b00000010#8, 0b00000010#8, 0b01010101#8] = .ok (.wrPower 0x55#8) := by rfl
theorem test_decode_wrContrast : decode [0b00000011#8, 0b00000010#8, 0b01010101#8] = .ok (.wrContrast 0x55#8) := by rfl
theorem test_decode_wrCursortype : decode [0b00000100#8, 0b00000010#8, 0b01010101#8] = .ok (.wrCursortype 0x55#8) := by rfl
theorem test_decode_wrCursorrow : decode [0b00000101#8, 0b00000010#8, 0b01010101#8] = .ok (.wrCursorrow 0x55#8) := by rfl
theorem test_decode_wrCursorcol : decode [0b00000110#8, 0b00000010#8, 0b01010101#8] = .ok (.wrCursorcol 0x55#8) := by rfl
theorem test_decode_wrDisplay_first : decode [0b00000111#8, 0b00000010#8, 0b01000001#8] = .ok (.wrDisplay 0 0x41#8) := by rfl
theorem test_decode_wrDisplay_last : decode [0b01010110#8, 0b00000010#8, 0b01000001#8] = .ok (.wrDisplay 79 0x41#8) := by rfl
theorem test_decode_wrCgram_first : decode [0b01010111#8, 0b00000010#8, 0b00011111#8] = .ok (.wrCgram 0 0x1F#8) := by rfl
theorem test_decode_wrCgram_last : decode [0b10010110#8, 0b00000010#8, 0b00011111#8] = .ok (.wrCgram 63 0x1F#8) := by rfl
theorem test_decode_wrIcon_first : decode [0b10010111#8, 0b00000010#8, 0b00011111#8] = .ok (.wrIcon 0 0x1F#8) := by rfl
theorem test_decode_wrIcon_last : decode [0b10100110#8, 0b00000010#8, 0b00011111#8] = .ok (.wrIcon 15 0x1F#8) := by rfl
theorem test_decode_wrOor : decode [0b10100111#8, 0b00000010#8, 0b00000001#8] = .ok (.wrOor 0x01#8) := by rfl
theorem test_decode_rdStatus : decode [0b00000000#8, 0b00000110#8] = .ok (.rdStatus .ack) := by rfl
theorem test_decode_rdKey : decode [0b00000001#8, 0b00000100#8] = .ok (.rdKey .addr) := by rfl
theorem test_decode_rdPower : decode [0b00000010#8, 0b00000110#8] = .ok (.rdPower .ack) := by rfl
theorem test_decode_rdContrast : decode [0b00000011#8, 0b00000100#8] = .ok (.rdContrast .addr) := by rfl
theorem test_decode_rdCursortype : decode [0b00000100#8, 0b00000110#8] = .ok (.rdCursortype .ack) := by rfl
theorem test_decode_rdCursorrow : decode [0b00000101#8, 0b00000100#8] = .ok (.rdCursorrow .addr) := by rfl
theorem test_decode_rdCursorcol : decode [0b00000110#8, 0b00000110#8] = .ok (.rdCursorcol .ack) := by rfl
theorem test_decode_rdDisplay_first : decode [0b00000111#8, 0b00000100#8] = .ok (.rdDisplay .addr 0) := by rfl
theorem test_decode_rdDisplay_last : decode [0b01010110#8, 0b00000110#8] = .ok (.rdDisplay .ack 79) := by rfl
theorem test_decode_rdCgram_first : decode [0b01010111#8, 0b00000101#8] = .ok (.rdCgram .addr 0) := by rfl
theorem test_decode_rdCgram_last : decode [0b10010110#8, 0b00000111#8] = .ok (.rdCgram .ack 63) := by rfl
theorem test_decode_rdIcon_first : decode [0b10010111#8, 0b00000100#8] = .ok (.rdIcon .addr 0) := by rfl
theorem test_decode_rdIcon_last : decode [0b10100110#8, 0b00000110#8] = .ok (.rdIcon .ack 15) := by rfl
theorem test_decode_rdOor : decode [0b10100111#8, 0b00000100#8] = .ok (.rdOor .addr) := by rfl
theorem test_decode_sRnack : decode [0b00110011#8, 0b00001000#8] = .ok (.sRnack) := by rfl
theorem test_decode_sBuserr : decode [0b00110011#8, 0b00001011#8] = .ok (.sBuserr) := by rfl

theorem test_decode_kind_six_refused : decode [0b00000000#8, 0b00001100#8] = .error .unknownEventKind := by rfl
theorem test_decode_kind_seven_refused : decode [0b00000000#8, 0b00001110#8] = .error .unknownEventKind := by rfl
theorem test_decode_reserved_bit_refused : decode [0b00000000#8, 0b00010000#8] = .error .reservedSelectorBits := by rfl
theorem test_decode_write_without_byte_refused : decode [0b00000000#8, 0b00000010#8] = .error .missingDataByte := by rfl
theorem test_decode_read_with_byte_refused :
    decode [0b00000000#8, 0b00000100#8, 0b00000000#8] = .error .unexpectedDataByte := by rfl
theorem test_decode_one_byte_refused : decode [0b00000000#8] = .error .wrongLength := by rfl
theorem test_tableWord_wrPower : decodeTableWord 16 0x202 = some (.wrPower 0x00#8) := by rfl
theorem test_tableWord_rdOor : decodeTableWord 16 0x4A7 = some (.rdOor .addr) := by rfl
theorem test_encode_call_has_none : encode .evDrain = none ∧ encode .tick = none ∧ encode .reset = none := by decide

/-! ## One step per operation

The parameters are those of `spec/95_test_vectors.md` section 0. -/

/-- The parameters of the vectors. -/
def vp : Params where
  slaveAddr7 := 0x3E#7
  pinMap := ⟨Vector.replicate 4 ⟨0, 0#8⟩, Vector.replicate 4 ⟨1, 0#8⟩⟩
  keyBufCap := 4
  tDebounce := 3
  tHold := 8
  tRepeat := 4
  timerEventDiv := 8
  cgramSentMark := 0x80#8

/-- "From reset" of the vectors: the reset state after the boot. -/
def ready : State := { State.initial vp with boot := .running, gie := true }

/-- The ring holding the two keys 3 and 7. -/
def twoKeys : State := { ready with kbuf := [3#8, 7#8, 0#8, 0#8], kend := 2, ksize := 2 }

/-- Does the outcome answer a next state with this property? -/
def answers (o : Host.Outcome State Fault Refusal) (p : State → Bool) : Bool :=
  match o with
  | .next t => p t
  | .fault _ => false
  | .refused _ => false

/-- Is this what `MAIN` has to do next, and nothing else: make these calls? -/
def linesUp (t : State) (cs : List LcdCall) : Bool := t.mainOps == cs.map .lcdCall

/-- Is the outcome this fault? -/
def faults (o : Host.Outcome State Fault Refusal) (e : Fault) : Bool :=
  match o with
  | .next _ => false
  | .fault x => decide (x = e)
  | .refused _ => false

/-- Is the outcome this refusal? -/
def refuses (o : Host.Outcome State Fault Refusal) (e : Refusal) : Bool :=
  match o with
  | .next _ => false
  | .fault _ => false
  | .refused x => decide (x = e)

/-- V-ADDR-6. -/
theorem test_sWaddr : answers (exec (.sWaddr) { ready with mapAddr := 0x10#8 })
    (fun t => t.writeStart && t.mapAddr == 0x10#8 && !t.nack) = true := by decide
/-- V-ADDR-2. -/
theorem test_sSetaddr : answers (exec (.sSetaddr 0xA6#8) { ready with mapAddr := 0x10#8, writeStart := true })
    (fun t => t.mapAddr == 0xA6#8 && !t.writeStart && !t.nack) = true := by decide
/-- V-ADDR-3. -/
theorem test_sSetaddrOor : answers (exec (.sSetaddrOor 0xA7#8) { ready with mapAddr := 0x10#8, writeStart := true })
    (fun t => t.mapAddr == 0x10#8 && t.writeStart && t.nack) = true := by decide
/-- V-ST-2. -/
theorem test_wrStatus : answers (exec (.wrStatus 0x55#8) ready)
    (fun t => t.status == .normal && t.mapAddr == 0x01#8 && t.evMask == 0#8 && !t.nack) = true := by decide
/-- V-KEY-3. -/
theorem test_wrKey : answers (exec (.wrKey 0xAB#8) { ready with mapAddr := 0x01#8 })
    (fun t => memRead t 1 == some 0xAB#8 && t.mapAddr == 0x02#8 && t.evMask == 0#8) = true := by decide
/-- V-PWR-9. -/
theorem test_wrPower_on : answers (exec (.wrPower 0x01#8) { ready with mapAddr := 0x02#8, mem := [(0x02, 0x03#8), (0x03, 0x10#8), (0x07, 0x41#8)] })
    (fun t => memRead t 2 == some 1#8 && memRead t 7 == some 0x41#8 && t.evMask == 0x02#8 && t.status == .processing) = true := by decide
/-- V-PWR-10. -/
theorem test_wrPower_off : answers (exec (.wrPower 0x00#8) { ready with mapAddr := 0x02#8, mem := [(0x02, 0x01#8), (0x03, 0x10#8), (0x07, 0x41#8)] })
    (fun t => memRead t 3 == some 0x20#8 && memRead t 7 == some 0x00#8 && t.evMask == 0x02#8 && t.mapAddr == 0x03#8) = true := by decide +kernel
/-- V-CON-3. -/
theorem test_wrContrast_max : answers (exec (.wrContrast 0x3F#8) { ready with mapAddr := 0x03#8 })
    (fun t => memRead t 3 == some 0x3F#8 && t.evMask == 0x02#8 && t.mapAddr == 0x04#8) = true := by decide
/-- V-CON-4. -/
theorem test_wrContrast_rejected : answers (exec (.wrContrast 0x40#8) { ready with mapAddr := 0x03#8 })
    (fun t => memRead t 3 == some 0x20#8 && t.evMask == 0#8 && t.mapAddr == 0x03#8 && t.nack) = true := by decide
/-- V-CT-3. -/
theorem test_wrCursortype_max : answers (exec (.wrCursortype 0x03#8) { ready with mapAddr := 0x04#8 })
    (fun t => memRead t 4 == some 3#8 && t.evMask == 0x04#8 && t.mapAddr == 0x05#8) = true := by decide
/-- V-CT-4. -/
theorem test_wrCursortype_rejected : answers (exec (.wrCursortype 0x04#8) { ready with mapAddr := 0x04#8 })
    (fun t => memRead t 4 == some 0#8 && t.mapAddr == 0x04#8 && t.nack) = true := by decide
/-- V-ROW-2. -/
theorem test_wrCursorrow_max : answers (exec (.wrCursorrow 0x01#8) { ready with mapAddr := 0x05#8 })
    (fun t => memRead t 5 == some 1#8 && t.evMask == 0x08#8 && t.mapAddr == 0x06#8) = true := by decide
/-- V-ROW-3. -/
theorem test_wrCursorrow_rejected : answers (exec (.wrCursorrow 0x02#8) { ready with mapAddr := 0x05#8 })
    (fun t => memRead t 5 == some 0#8 && t.mapAddr == 0x05#8 && t.nack) = true := by decide
/-- V-COL-2. -/
theorem test_wrCursorcol_max : answers (exec (.wrCursorcol 0x27#8) { ready with mapAddr := 0x06#8 })
    (fun t => memRead t 6 == some 39#8 && t.evMask == 0x08#8 && t.mapAddr == 0x07#8) = true := by decide
/-- V-COL-3. -/
theorem test_wrCursorcol_rejected : answers (exec (.wrCursorcol 0x28#8) { ready with mapAddr := 0x06#8 })
    (fun t => memRead t 6 == some 0#8 && t.mapAddr == 0x06#8 && t.nack) = true := by decide
/-- V-DSP-3. -/
theorem test_wrDisplay_row0 : answers (exec (.wrDisplay 39 0x01#8) { ready with mapAddr := 0x2E#8 })
    (fun t => memRead t 0x2E == some 1#8 && t.evMask == 0x10#8 && t.mapAddr == 0x2F#8) = true := by decide
/-- V-DSP-4. -/
theorem test_wrDisplay_row1 : answers (exec (.wrDisplay 40 0x01#8) { ready with mapAddr := 0x2F#8 })
    (fun t => memRead t 0x2F == some 1#8 && t.evMask == 0x20#8 && t.mapAddr == 0x30#8) = true := by decide
/-- V-CG-4. -/
theorem test_wrCgram_last : answers (exec (.wrCgram 63 0x1F#8) { ready with mapAddr := 0x96#8 })
    (fun t => memRead t 0x96 == some 0x1F#8 && t.evMask == 0x40#8 && t.mapAddr == 0x97#8) = true := by decide
/-- V-CG-5. -/
theorem test_wrCgram_rejected : answers (exec (.wrCgram 63 0x20#8) { ready with mapAddr := 0x96#8 })
    (fun t => memRead t 0x96 == some 0#8 && t.evMask == 0#8 && t.mapAddr == 0x96#8 && t.nack) = true := by decide
/-- V-IC-4. -/
theorem test_wrIcon_last : answers (exec (.wrIcon 15 0x1F#8) { ready with mapAddr := 0xA6#8 })
    (fun t => memRead t 0xA6 == some 0x1F#8 && t.evMask == 0x80#8 && t.mapAddr == 0xA7#8) = true := by decide
/-- V-IC-5. -/
theorem test_wrIcon_rejected : answers (exec (.wrIcon 15 0x20#8) { ready with mapAddr := 0xA6#8 })
    (fun t => memRead t 0xA6 == some 0#8 && t.mapAddr == 0xA6#8 && t.nack) = true := by decide
/-- V-BURST-4, its third byte. -/
theorem test_wrOor : answers (exec (.wrOor 0x03#8) { ready with mapAddr := 0xA7#8 })
    (fun t => t.mapAddr == 0xA7#8 && t.evMask == 0#8 && t.mem == [] && t.nack) = true := by decide
/-- V-RD-11. -/
theorem test_rdStatus : answers (exec (.rdStatus .addr) { ready with status := .processing })
    (fun t => t.tx == some 1#8 && t.mapAddr == 0x01#8 && !t.nack) = true := by decide
/-- V-RD-2. -/
theorem test_rdKey : answers (exec (.rdKey .addr) { ready with mapAddr := 0x01#8, mem := [(0x01, 0x05#8)] })
    (fun t => t.tx == some 5#8 && memRead t 1 == some 0xFF#8 && t.mapAddr == 0x02#8) = true := by decide
/-- program P3, step 6. -/
theorem test_rdPower : answers (exec (.rdPower .addr) { ready with mapAddr := 0x02#8, mem := [(0x02, 0x02#8), (0x03, 0x3F#8)] })
    (fun t => t.tx == some 2#8 && t.mapAddr == 0x03#8) = true := by decide
/-- program P3, step 6. -/
theorem test_rdContrast : answers (exec (.rdContrast .ack) { ready with mapAddr := 0x03#8, mem := [(0x02, 0x02#8), (0x03, 0x3F#8)] })
    (fun t => t.tx == some 0x3F#8 && t.mapAddr == 0x04#8) = true := by decide
/-- program P2, step 3. -/
theorem test_rdCursortype : answers (exec (.rdCursortype .ack) { ready with mapAddr := 0x04#8, mem := [(0x04, 0x01#8), (0x05, 0x00#8), (0x06, 0x0A#8)] })
    (fun t => t.tx == some 1#8 && t.mapAddr == 0x05#8) = true := by decide
/-- program P2, step 3. -/
theorem test_rdCursorrow : answers (exec (.rdCursorrow .ack) { ready with mapAddr := 0x05#8, mem := [(0x05, 0x01#8), (0x06, 0x0A#8)] })
    (fun t => t.tx == some 1#8 && t.mapAddr == 0x06#8) = true := by decide
/-- program P2, step 8. -/
theorem test_rdCursorcol : answers (exec (.rdCursorcol .addr) { ready with mapAddr := 0x06#8, mem := [(0x06, 0x0A#8)] })
    (fun t => t.tx == some 10#8 && t.mapAddr == 0x07#8) = true := by decide
/-- V-RD-10. -/
theorem test_rdDisplay : answers (exec (.rdDisplay .addr 79) { ready with mapAddr := 0x56#8, mem := [(0x56, 0x11#8), (0x57, 0x12#8)] })
    (fun t => t.tx == some 0x11#8 && t.mapAddr == 0x57#8) = true := by decide
/-- V-ML-7: the stored byte with its mark. -/
theorem test_rdCgram : answers (exec (.rdCgram .addr 0) { ready with mapAddr := 0x57#8, mem := [(0x57, 0x9F#8)] })
    (fun t => t.tx == some 0x9F#8 && t.mapAddr == 0x58#8) = true := by decide
/-- V-RD-6. -/
theorem test_rdIcon : answers (exec (.rdIcon .addr 15) { ready with mapAddr := 0xA6#8, mem := [(0xA6, 0x01#8)] })
    (fun t => t.tx == some 1#8 && t.mapAddr == 0xA7#8) = true := by decide
/-- V-RD-7. -/
theorem test_rdOor : answers (exec (.rdOor .addr) { ready with mapAddr := 0xA7#8 })
    (fun t => t.tx == some 0xFF#8 && t.mapAddr == 0xA7#8 && t.nack) = true := by decide
/-- V-RD-5. -/
theorem test_sRnack : answers (exec (.sRnack) { ready with mapAddr := 0x05#8 })
    (fun t => t.tx == none && t.mapAddr == 0x05#8 && !t.nack) = true := by decide
/-- V-BE-1. -/
theorem test_sBuserr : answers (exec (.sBuserr) { ready with writeStart := true })
    (fun t => !t.writeStart && t.mapAddr == 0x00#8 && t.evMask == 0#8) = true := by decide
/-- S3: the defaults. -/
theorem test_powerOffReset : answers (exec (.powerOffReset) { ready with mem := [(0x03, 0x3F#8), (0x04, 0x03#8), (0x06, 0x27#8), (0x07, 0x41#8), (0x57, 0x9F#8), (0x97, 0x0A#8)] })
    (fun t => t.mem == []) = true := by decide +kernel
/-- V-EV-1. -/
theorem test_evRaise : answers (exec (.evRaise .drawLine0) { ready with evMask := 0x02#8, status := .processing })
    (fun t => t.evMask == 0x12#8 && t.csDepth == 0 && t.gie) = true := by decide
/-- V-EV-6. -/
theorem test_evRaise_timer : answers (exec (.evRaise .timer) ready)
    (fun t => t.evMask == 0x01#8 && t.status == .processing) = true := by decide
/-- V-EV-3. -/
theorem test_evDrain_some : answers (exec (.evDrain) { ready with evMask := 0x12#8, status := .processing })
    (fun t => t.result == .mask 0x12#8 && t.evMask == 0#8 && t.status == .processing) = true := by decide
/-- V-EV-4. -/
theorem test_evDrain_none : answers (exec (.evDrain) { ready with status := .processing })
    (fun t => t.result == .mask 0#8 && t.status == .normal) = true := by decide
/-- V-ML-12: the order of the handlers. -/
theorem test_mlPoll : answers (exec (.mlPoll) { ready with evMask := 0xFE#8, status := .processing })
    (fun t => t.mainOps.head? == some (.handler .powerContrast) && t.mainOps.length == 7 && t.evMask == 0#8) = true := by decide
/-- `spec/41_events_and_main_loop.md` R123. -/
theorem test_mlPoll_timer_first : answers (exec (.mlPoll) { ready with evMask := 0x81#8 })
    (fun t => t.mainOps == [.handler .timer, .handler .drawIcon]) = true := by decide
/-- V-ML-13: `KP_FINAL` returns 7. -/
theorem test_dspTimer : answers (exec (.dspTimer) twoKeys)
    (fun t => t.mainOps == [.latchKey 7#8] && t.ksize == 0) = true := by decide
/-- V-ML-14. -/
theorem test_dspTimer_empty : answers (exec (.dspTimer) { ready with mem := [(0x01, 0x05#8)] })
    (fun t => t.mainOps == [] && memRead t 1 == some 5#8) = true := by decide
/-- V-ML-2. -/
theorem test_dspPowerContrast_on : answers (exec (.dspPowerContrast) { ready with mem := [(0x02, 0x03#8)] })
    (fun t => linesUp t [.panelPin true, .backlightPin true, .init, .setContrast 0x20#8] && t.lcd == []) = true := by decide
/-- V-ML-3. -/
theorem test_dspPowerContrast_still_on : answers (exec (.dspPowerContrast) { ready with panelPin := true, mem := [(0x02, 0x03#8), (0x03, 0x10#8)] })
    (fun t => linesUp t [.panelPin true, .backlightPin true, .setContrast 0x10#8]) = true := by decide
/-- V-ML-4. -/
theorem test_dspCursorSet : answers (exec (.dspCursorSet) { ready with mem := [(0x02, 0x03#8), (0x04, 0x01#8)] })
    (fun t => linesUp t [.setDisplaySettings true true false]) = true := by decide
/-- V-ML-5. -/
theorem test_dspCursorDraw : answers (exec (.dspCursorDraw) { ready with mem := [(0x05, 0x01#8), (0x06, 0x0F#8)] })
    (fun t => linesUp t [.setCursor 1#8 15#8]) = true := by decide
/-- scenario B. -/
theorem test_dspDrawLine0 : answers (exec (.dspDrawLine0) { ready with mem := [(0x05, 0x01#8), (0x07, 0x48#8), (0x16, 0x4F#8), (0x17, 0x99#8)] })
    (fun t => linesUp t [.setCursor 0#8 0#8, .writeBytes [0x48#8, 0#8, 0#8, 0#8, 0#8, 0#8, 0#8, 0#8, 0#8, 0#8, 0#8, 0#8,
      0#8, 0#8, 0#8, 0x4F#8], .setCursor 1#8 0#8]) = true := by decide
/-- V-ML-6. -/
theorem test_dspDrawLine1 : answers (exec (.dspDrawLine1) { ready with mem := [(0x2F, 0x41#8)] })
    (fun t => linesUp t [.setCursor 1#8 0#8, .writeBytes [0x41#8, 0#8, 0#8, 0#8, 0#8, 0#8, 0#8, 0#8, 0#8, 0#8, 0#8, 0#8,
      0#8, 0#8, 0#8, 0#8], .setCursor 0#8 0#8]) = true := by decide
/-- V-ML-7: slot 0. -/
theorem test_dspSetCgram : answers (exec (.dspSetCgram) { ready with mem := [(0x57, 0x1F#8)] })
    (fun t => t.mainOps == [.lcdCall (.writeCgram 0 [0x1F#8, 0#8, 0#8, 0#8, 0#8, 0#8, 0#8, 0#8]), .pushSlot 1] &&
      memRead t 0x57 == some 0x9F#8) = true := by decide
/-- V-ML-8: slot 0. -/
theorem test_dspSetCgram_sent : answers (exec (.dspSetCgram) { ready with mem := [(0x57, 0x9F#8), (0x58, 0x11#8)] })
    (fun t => t.mainOps == [.pushSlot 1] && memRead t 0x57 == some 0x9F#8) = true := by decide
/-- V-ML-11. -/
theorem test_dspDrawIcon : answers (exec (.dspDrawIcon) { ready with mem := [(0x97, 0x01#8)] })
    (fun t => t.mainOps.length == 16 && t.mainOps.head? == some (.lcdCall (.writeIcon 0 1#8)) &&
      t.mainOps.getLast? == some (.lcdCall (.writeIcon 15 0#8))) = true := by decide
/-- `spec/42_keypad.md` R140. -/
theorem test_kpInit : answers (exec (.kpInit vp.pinMap) (State.initial vp))
    (fun t => t.kpCfg == vp.pinMap && t.lastKey == 0xFF#8 && t.boot == .masterInit) = true := by decide
/-- `spec/93_implementation_defined.md` U15. -/
theorem test_kpInit_twice : refuses (exec (.kpInit vp.pinMap) ready) .kpInitTwice = true := by decide
/-- section 2.8: keys 9 and 6 together. -/
theorem test_kpScan : answers (exec (.kpScan) { ready with keys := 0x0240#16 })
    (fun t => t.result == .key 6#8) = true := by decide
/-- section 2.8: only (3, 3). -/
theorem test_kpScan_last : answers (exec (.kpScan) { ready with keys := 0x8000#16 })
    (fun t => t.result == .key 15#8) = true := by decide
/-- V-KP-1, call 3. -/
theorem test_kpRead_report : answers (exec (.kpRead) { ready with keys := 0x0020#16, lastKey := 5#8, checkCount := 2 })
    (fun t => t.result == .key 5#8 && t.checkCount == 3) = true := by decide
/-- V-KP-1, call 12. -/
theorem test_kpRead_repeat : answers (exec (.kpRead) { ready with keys := 0x0020#16, lastKey := 5#8, checkCount := 11 })
    (fun t => t.result == .key 5#8 && t.checkCount == 8) = true := by decide
/-- S7. -/
theorem test_kpInsert : answers (exec (.kpInsert 2#8) twoKeys)
    (fun t => t.result == .inserted true && t.kbuf == [3#8, 7#8, 2#8, 0#8] && t.kend == 3 && t.ksize == 3) = true := by decide
/-- S7. -/
theorem test_kpInsert_full : answers (exec (.kpInsert 9#8) { ready with kbuf := [3#8, 7#8, 7#8, 2#8], ksize := 4 })
    (fun t => t.result == .inserted false && t.kbuf == [3#8, 7#8, 7#8, 2#8]) = true := by decide
/-- V-KP-12, the third tick. -/
theorem test_kpCapture : answers (exec (.kpCapture) { ready with keys := 0x0020#16, lastKey := 5#8, checkCount := 2 })
    (fun t => t.kbuf == [5#8, 0#8, 0#8, 0#8] && t.ksize == 1 && t.checkCount == 3) = true := by decide
/-- `spec/60_exceptions.md` R183. -/
theorem test_kpCapture_corrupt : faults (exec (.kpCapture) { ready with ksize := 5 }) .ringCorrupt = true := by decide
/-- S7. -/
theorem test_kpFront : answers (exec (.kpFront) twoKeys)
    (fun t => t.result == .key 3#8 && t.kbegin == 1 && t.ksize == 1) = true := by decide
/-- V-RST-4. -/
theorem test_kpFront_empty : answers (exec (.kpFront) ready)
    (fun t => t.result == .key 0xFF#8 && t.ksize == 0) = true := by decide
/-- V-ML-13. -/
theorem test_kpFinal : answers (exec (.kpFinal) twoKeys)
    (fun t => t.result == .key 7#8 && t.kbegin == 2 && t.kend == 2 && t.ksize == 0) = true := by decide
/-- S7: `kend` 0 with a full ring. -/
theorem test_kpFinal_wrapped : answers (exec (.kpFinal) { ready with kbuf := [3#8, 7#8, 7#8, 2#8], ksize := 4 })
    (fun t => t.result == .key 2#8 && t.kbegin == 0 && t.ksize == 0) = true := by decide
/-- V-KP-13. -/
theorem test_kpClear : answers (exec (.kpClear) twoKeys)
    (fun t => t.kbegin == 0 && t.kend == 0 && t.ksize == 0) = true := by decide
/-- V-CS-1. -/
theorem test_csBegin : answers (exec (.csBegin) ready) (fun t => t.csDepth == 1 && !t.gie) = true := by decide
/-- V-CS-3. -/
theorem test_csBegin_overflow : faults (exec (.csBegin) { ready with csDepth := 255, gie := false }) .csDepthOverflow = true := by decide
/-- V-CS-4. -/
theorem test_csEnd : answers (exec (.csEnd) { ready with csDepth := 1, gie := false })
    (fun t => t.csDepth == 0 && t.gie) = true := by decide
/-- V-CS-2. -/
theorem test_csEnd_underflow : faults (exec (.csEnd) ready) .csDepthUnderflow = true := by decide
/-- V-TK-2. -/
theorem test_tick : answers (exec (.tick) { ready with tickCount := 7 })
    (fun t => t.tickCount == 0 && t.evMask == 0x01#8 && t.status == .processing) = true := by decide
/-- V-TK-1. -/
theorem test_tick_between : answers (exec (.tick) { ready with tickCount := 6 })
    (fun t => t.tickCount == 7 && t.evMask == 0#8 && t.status == .normal) = true := by decide
/-- V-RST-1. -/
theorem test_reset : answers (exec (.reset) { ready with mapAddr := 0x33#8, mem := [(0x01, 0x05#8)], evMask := 0x12#8, status := .processing })
    (fun t => t.mapAddr == 0#8 && memRead t 1 == some 0xFF#8 && memRead t 3 == some 0x20#8 && !t.gie) = true := by decide

/-! ## The step and the run from reset -/

/-- A word placed where the step fetches: `spec/95_test_vectors.md` V-CON-1. -/
theorem test_step_runs_the_placed_word : answers (step (State.reset.withFetchWord 16 0x203))
    (fun t => memRead t 3 == some 0#8 && t.mapAddr == 0x04#8 && !t.inIsr && !t.irqI2C) = true := by decide

/-- The boot's five stages (`spec/70_reset_and_hazards.md` R212). -/
theorem test_boot_enables_interrupts : answers (Host.Core.run core 5 State.reset)
    (fun t => t.gie && t.boot == .running && t.csDepth == 0) = true := by decide

/-- An event of the other unit (`spec/40_slave_engine.md` R111). -/
theorem test_step_other_unit : refuses (step { ready with irqI2C := true, i2cEvent := ⟨.master, 0#3, 0#8⟩ })
    .otherBusUnit = true := by decide

/-- The handler's four steps after its bracket make the calls and drive the pins (V-ML-2). -/
theorem test_power_handler_calls_made :
    answers (Host.Core.run core 5 { ready with mem := [(2, 3#8)], mainOps := [.handler .powerContrast] })
      (fun t => t.lcd == [.panelPin true, .backlightPin true, .init, .setContrast 0x20#8] && t.panelPin && t.backlightPin &&
        t.mainOps == []) = true := by decide

/-- A data byte is handled while a handler waits; the line goes out as it was copied (`spec/41_events_and_main_loop.md`
R125, R135). -/
theorem test_slave_event_while_handler_waits :
    answers (step { ready with
        irqI2C := true, i2cEvent := ⟨.slave, 1#3, 0x42#8⟩, mapAddr := 0x08#8
        mainOps := [.lcdCall (.writeBytes [0x41#8, 0#8])] })
      (fun t => memRead t 0x08 == some 0x42#8 && linesUp t [.writeBytes [0x41#8, 0#8]]) = true := by decide

/-- With interrupts disabled a pending event waits (`spec/60_exceptions.md` R186). -/
theorem test_step_masked : answers (step { ready with gie := false, csDepth := 1, irqI2C := true })
    (fun t => t.irqI2C && !t.writeStart) = true := by decide

/-! ## Witnesses: concrete states and operands that meet the hypotheses of each statement -/

/-- A slave event pending alone: a data byte for `contrast`. -/
def pendingWrite : State :=
  { ready with irqI2C := true, i2cEvent := ⟨.slave, 1#3, 0x3F#8⟩, mapAddr := 0x03#8 }

/-- Both interrupts pending. -/
def bothPending : State := { pendingWrite with irqTimer := true }

/-- Before the boot's first stage. -/
def unbooted : State := State.initial vp

/-- A full ring. -/
def fullRing : State := { ready with kbuf := [3#8, 7#8, 7#8, 2#8], ksize := 4 }

/-- The ring invariant broken. -/
def brokenRing : State := { ready with ksize := 5 }

theorem witness_DecodeInvertsEncode :
    ((Instr.sSetaddr 0xA6#8).wf = true ∧ (Instr.sSetaddr 0xA6#8).format = .slv) ∧
      (Instr.kpInsert 15#8).wf = true ∧ (Instr.kpInsert 15#8).format ≠ .slv := by decide

theorem witness_DecodeFollowsTheOpcodeTable : 0x202 < 4096 ∧ 4095 < 4096 ∧
    decode ([BitVec.ofNat 8 0x202, BitVec.ofNat 8 (0x202 / 256)] ++ (some 3#8).toList) = .ok (.wrPower 3#8) :=
  ⟨by decide, by decide, rfl⟩

theorem witness_StepRunsTheDecodedSlaveEvent_next :
    pendingWrite.gie = true ∧ pendingWrite.inIsr = false ∧ pendingWrite.irqI2C = true ∧ pendingWrite.irqTimer = false ∧
      pendingWrite.i2cEvent.unit = .slave ∧ decode (fetchBytes pendingWrite) = .ok (.wrContrast 0x3F#8) ∧
      answers (exec (.wrContrast 0x3F#8) { pendingWrite with inIsr := true, irqI2C := false }) (fun _ => true) = true :=
  ⟨rfl, rfl, rfl, rfl, rfl, rfl, by decide⟩

/-- The same with no room in the guard, where the operation faults. -/
theorem witness_StepRunsTheDecodedSlaveEvent_fault :
    decode (fetchBytes { pendingWrite with csDepth := 255 }) = .ok (.wrContrast 0x3F#8) ∧
      faults (exec (.wrContrast 0x3F#8) { pendingWrite with csDepth := 255, inIsr := true, irqI2C := false })
        .csDepthOverflow = true := ⟨rfl, by decide⟩

theorem witness_StepRunsTheTick :
    ready.gie = true ∧ ready.inIsr = false ∧ { ready with irqTimer := true }.irqI2C = false ∧
      answers (exec .tick { ready with inIsr := true, irqTimer := false }) (fun _ => true) = true ∧
      faults (exec .tick { brokenRing with inIsr := true, irqTimer := false }) .ringCorrupt = true := by decide

theorem witness_StepRunsMain :
    canDeliver unbooted = false ∧ unbooted.turns = [] ∧ unbooted.boot = .kpInit ∧
      canDeliver { unbooted with boot := .masterInit } = false ∧ canDeliver { unbooted with boot := .slaveInit } = false ∧
      canDeliver { unbooted with boot := .timerStart } = false ∧ canDeliver { unbooted with boot := .enable } = false ∧
      canDeliver { ready with turns := [.main] } = false ∧ ready.boot = .running ∧ ready.mainOps = [] ∧
      canDeliver { ready with mainOps := [.handler .timer] } = false ∧
      canDeliver { ready with mainOps := [.lcdCall (.panelPin true)] } = false ∧
      canDeliver { ready with mainOps := [.lcdCall (.backlightPin true)] } = false ∧
      canDeliver { ready with mainOps := [.lcdCall .init] } = false ∧ (∀ b, LcdCall.init ≠ .panelPin b) ∧
      (∀ b, LcdCall.init ≠ .backlightPin b) ∧
      canDeliver { ready with mainOps := [.latchKey 7#8], turns := [.main] } = false ∧
      canDeliver { ready with mainOps := [.pushSlot 7], turns := [.main] } = false ∧ RoomInGuard ready := by decide

theorem witness_StepTakesTheTurn :
    canDeliver { ready with turns := [.call .csBegin] } = false ∧ canDeliver { unbooted with turns := [.restart] } = false ∧
      canDeliver { ready with turns := [.keys 0xFFFF#16] } = false ∧
      canDeliver { ready with turns := [.bus], bus := [⟨.slave, 0#3, 0#8⟩] } = false ∧ ready.irqI2C = false ∧
      canDeliver { pendingWrite with gie := false, turns := [.bus] } = false ∧
      canDeliver { ready with turns := [.period] } = false ∧ ready.boot = .running := by decide

theorem witness_MaskedInterruptsRunNoHandler :
    answers (step { bothPending with gie := false, csDepth := 1 }) (fun t => t.irqI2C && t.irqTimer) = true ∧
      answers (step { bothPending with inIsr := true }) (fun t => t.irqI2C && t.irqTimer) = true ∧
      bothPending.turns.head? ≠ some .restart := by decide

theorem witness_BothPendingEitherHandlerRuns :
    bothPending.gie = true ∧ bothPending.inIsr = false ∧ bothPending.irqI2C = true ∧ bothPending.irqTimer = true ∧
      bothPending.i2cEvent.unit = .slave ∧ decode (fetchBytes bothPending) = .ok (.wrContrast 0x3F#8) ∧
      RoomInGuard bothPending ∧ ringOk bothPending = true :=
  ⟨rfl, rfl, rfl, rfl, rfl, rfl, by decide, by decide⟩

theorem witness_HandlerOrderCommutes :
    (Instr.wrContrast 0x3F#8).format = .slv ∧ (Instr.rdStatus .addr).format = .slv ∧
      RoomInGuard { ready with csDepth := 254 } ∧ ringOk ready = true := by decide

theorem witness_StepKeepsTheMapInRange :
    answers (step pendingWrite) (fun t => t.mem == [(3, 0x3F#8)]) = true ∧ MemCanonical pendingWrite ∧
      FieldsInRange pendingWrite := by
  unfold MemCanonical FieldsInRange; decide

theorem witness_StepKeepsCursorAndStatus :
    answers (step { pendingWrite with mapAddr := 0xA7#8, evMask := 1#8, status := .processing }) (fun t => t.nack) = true ∧
      CursorInRange { pendingWrite with mapAddr := 0xA7#8 } ∧
      PendingIsProcessing { pendingWrite with evMask := 1#8, status := .processing } := by
  unfold CursorInRange PendingIsProcessing; decide

theorem witness_StepKeepsTheRingSound :
    RingSound fullRing ∧ RingSound twoKeys ∧
      answers (step { twoKeys with turns := [.call .kpFront] }) (fun t => t.ksize == 1) = true := by
  unfold RingSound; decide

theorem witness_StepKeepsTheCountersBounded :
    DebounceBounded { ready with lastKey := 5#8, checkCount := 11 } ∧ TickBounded { ready with tickCount := 7 } ∧
      answers (step { ready with tickCount := 7, irqTimer := true }) (fun t => t.tickCount == 0) = true := by
  unfold DebounceBounded TickBounded; decide

theorem witness_StepKeepsTheGuardBalanced :
    GuardBalanced ready ∧ GuardBalanced unbooted ∧ GuardBalanced { ready with csDepth := 255, gie := false } ∧
      answers (step { ready with csDepth := 255, gie := false, turns := [.call .csEnd] }) (fun t => t.csDepth == 254) = true := by
  unfold GuardBalanced; decide

theorem witness_ParametersAndPinTableStay : answers (step unbooted) (fun t => t.kpCfg == vp.pinMap) = true := by decide

theorem witness_NoFaultFromSoundStates :
    RingSound twoKeys ∧ RoomInGuard twoKeys ∧ (twoKeys.csDepth = 0 → twoKeys.turns.head? ≠ some (.call .csEnd)) := by
  unfold RingSound; decide

theorem witness_ExactlyUnknownEventsAreRefused :
    refuses (step { pendingWrite with i2cEvent := ⟨.slave, 6#3, 0#8⟩ }) .unknownEventKind = true ∧
      refuses (step { pendingWrite with i2cEvent := ⟨.slave, 7#3, 0#8⟩ }) .unknownEventKind = true ∧
      refuses (step { pendingWrite with i2cEvent := ⟨.master, 0#3, 0#8⟩ }) .otherBusUnit = true ∧
      pendingWrite.gie = true ∧ pendingWrite.inIsr = false ∧ pendingWrite.irqI2C = true ∧
      pendingWrite.irqTimer = false := by decide

theorem witness_NackedEventChangesNothing :
    (Instr.wrContrast 0x40#8).format = .slv ∧ answers (exec (.wrContrast 0x40#8) ready) (fun t => t.nack) = true ∧
      (Instr.rdOor .addr).format = .slv ∧ answers (exec (.rdOor .addr) ready) (fun t => t.nack) = true := by decide

theorem witness_SlaveEventsCompleteAndKeepTheRest :
    (Instr.wrContrast 0x3F#8).format = .slv ∧ RoomInGuard { ready with csDepth := 254 } := by decide

theorem witness_WritersOfCursorAndStatus :
    answers (exec (.sSetaddr 0x10#8) ready) (fun t => t.mapAddr != ready.mapAddr) = true ∧
      answers (exec (.rdStatus .addr) ready) (fun t => t.mapAddr != ready.mapAddr) = true ∧
      answers (exec .reset { ready with mapAddr := 0x10#8, status := .processing })
        (fun t => t.mapAddr != 0x10#8 && t.status == .normal) = true ∧
      answers (exec .evDrain { ready with status := .processing }) (fun t => t.status == .normal) = true ∧
      answers (exec .mlPoll { ready with status := .processing }) (fun t => t.status == .normal) = true := by decide

theorem witness_MainWritesOnlyKeyAndSentMarks :
    canDeliver { ready with mainOps := [.handler .setCgram] } = false ∧ ready.turns.head? ≠ some .restart ∧
      answers (step { ready with mainOps := [.handler .setCgram] }) (fun t => memRead t 0x57 == some 0x80#8) = true ∧
      2 ≤ 0x58 ∧ ∀ n, n < 8 → 0x58 ≠ 0x57 + 8 * n := by
  refine ⟨by decide, by decide, by decide, by decide, fun n _ => by omega⟩

/-- A handler waits for a call, with the two interrupts pending as said and `e` the latched event: the premises of the
second clause. -/
def waiting (i2c timer : Bool) (e : SlaveEvent) : State :=
  { ready with irqI2C := i2c, irqTimer := timer, i2cEvent := e, mainOps := [.lcdCall .init] }

theorem witness_MainWritesOnlyKeyAndSentMarks_slave_waiting :
    let s := waiting true false ⟨.slave, 5#3, 0#8⟩
    s.mainOps = .lcdCall .init :: [] ∧ s.gie = true ∧ s.inIsr = false ∧ RoomInGuard s ∧ ringOk s = true ∧
      s.irqI2C = true ∧ s.irqTimer = false ∧ s.i2cEvent.unit = .slave ∧ s.i2cEvent.kind.toNat < 6 ∧
      answers (step s) (fun t => !t.irqI2C && !t.irqTimer && t.mainOps == [.lcdCall .init]) = true := by decide

theorem witness_MainWritesOnlyKeyAndSentMarks_tick_waiting :
    let s := waiting false true ⟨.master, 7#3, 0#8⟩
    s.mainOps = .lcdCall .init :: [] ∧ s.gie = true ∧ s.inIsr = false ∧ RoomInGuard s ∧ ringOk s = true ∧
      s.irqI2C = false ∧ s.irqTimer = true ∧
      answers (step s) (fun t => !t.irqI2C && !t.irqTimer && t.mainOps == [.lcdCall .init]) = true := by decide

theorem witness_MainWritesOnlyKeyAndSentMarks_both_waiting :
    let s := waiting true true ⟨.slave, 0#3, 0#8⟩
    s.mainOps = .lcdCall .init :: [] ∧ s.gie = true ∧ s.inIsr = false ∧ RoomInGuard s ∧ ringOk s = true ∧
      s.irqI2C = true ∧ s.irqTimer = true ∧ s.i2cEvent.unit = .slave ∧ s.i2cEvent.kind.toNat < 6 := by decide

theorem witness_WriteThenReadBack :
    RoomInGuard ready ∧ legalAt 0x02 3#8 ∧ legalAt 0x03 63#8 ∧ legalAt 0x04 3#8 ∧ legalAt 0x05 1#8 ∧ legalAt 0x06 39#8 ∧
      legalAt 0x07 0xFF#8 ∧ legalAt 0x56 0xFF#8 ∧ legalAt 0x57 0x1F#8 ∧ legalAt 0xA6 0x1F#8 := by
  unfold legalAt; decide

theorem witness_BurstWriteFillsTheDisplay :
    RoomInGuard ready ∧ 0 + (List.replicate 80 0x41#8).length ≤ 80 ∧ 80 + ([] : List Byte).length ≤ 80 := by decide

/-- Key 5 down, not seen before; the call numbers 3, 8, 12, 16 report it and 1, 4 do not (V-KP-1). -/
theorem witness_HeldKeyIsReportedAtTheThresholds :
    ({ ready with keys := 0x0020#16 }).params.wf ∧ ringOk ready = true ∧ kpScan 0x0020#16 ≠ 0xFF#8 ∧
      ready.lastKey ≠ kpScan 0x0020#16 ∧ vp.tDebounce = 3 ∧ vp.tHold = 8 ∧ 12 = vp.tHold + 1 * vp.tRepeat ∧
      1 ≠ vp.tDebounce := by decide

theorem witness_RingBufferIsAQueue :
    (RingSound twoKeys ∧ RoomInGuard twoKeys ∧ (entries twoKeys).length < vp.keyBufCap) ∧
      RingSound fullRing ∧ (entries fullRing).length = vp.keyBufCap := by
  unfold RingSound; decide

theorem witness_SetaddrMovesTheCursor : (0xA6#8).toNat ≤ 0xA6 ∧ (0x00#8).toNat ≤ 0xA6 := by decide

theorem witness_AddressPhaseAndRejections : 0xA7 ≤ (0xA7#8).toNat ∧ 0xA7 ≤ (0xFF#8).toNat := by decide

theorem witness_PowerWrite :
    RoomInGuard ready ∧ 3 < (4#8).toNat ∧ ((0#8).toNat ≤ 3 ∧ memRead ready 0x02 = some 0#8) ∧
      ((3#8).toNat ≤ 3 ∧ memRead ready 0x02 ≠ some 3#8 ∧ (3#8).getLsbD 0 = true) ∧
      (2#8).toNat ≤ 3 ∧ memRead ready 0x02 ≠ some 2#8 ∧ (2#8).getLsbD 0 = false := by decide

theorem witness_ScalarWritesTakeTheCommonForm :
    RoomInGuard ready ∧ (63 < (64#8).toNat ∧ 3 < (4#8).toNat ∧ 1 < (2#8).toNat ∧ 39 < (40#8).toNat) ∧
      (memRead ready 0x03 = some 0x20#8 ∧ memRead ready 0x04 = some 0#8 ∧ memRead ready 0x05 = some 0#8 ∧
        memRead ready 0x06 = some 0#8) ∧
      ((63#8).toNat ≤ 63 ∧ memRead ready 0x03 ≠ some 63#8) ∧ ((3#8).toNat ≤ 3 ∧ memRead ready 0x04 ≠ some 3#8) ∧
      ((1#8).toNat ≤ 1 ∧ memRead ready 0x05 ≠ some 1#8) ∧ (39#8).toNat ≤ 39 ∧ memRead ready 0x06 ≠ some 39#8 := by decide

theorem witness_ArrayWritesTakeTheCommonForm :
    RoomInGuard ready ∧ (39 : Fin 80).val < 40 ∧ 40 ≤ (40 : Fin 80).val ∧
      (0x1F < (0x20#8).toNat ∧ (0x1F#8).toNat ≤ 0x1F) ∧
      (memRead ready (0x07 + (39 : Fin 80).val) = some 0#8 ∧ memRead ready (0x07 + (39 : Fin 80).val) ≠ some 0xFF#8) ∧
      (memRead ready (0x07 + (79 : Fin 80).val) = some 0#8 ∧ memRead ready (0x07 + (79 : Fin 80).val) ≠ some 0xFF#8) ∧
      (memRead ready (0x57 + (63 : Fin 64).val) = some 0#8 ∧ memRead ready (0x57 + (63 : Fin 64).val) ≠ some 0x1F#8) ∧
      memRead ready (0x97 + (15 : Fin 16).val) = some 0#8 ∧ memRead ready (0x97 + (15 : Fin 16).val) ≠ some 0x1F#8 := by
  decide

theorem witness_ReadsAnswerTheStoredByte :
    memRead ready 0x00 = some 0x00#8 ∧ memRead { ready with status := .processing } 0x00 = some 0x01#8 ∧
      memRead ready 0x02 = some 0x00#8 ∧ memRead ready 0x03 = some 0x20#8 ∧ memRead ready 0x04 = some 0x00#8 ∧
      memRead ready 0x05 = some 0x00#8 ∧ memRead ready 0x06 = some 0x00#8 ∧
      memRead ready (0x07 + (79 : Fin 80).val) = some 0x00#8 ∧ memRead ready (0x57 + (63 : Fin 64).val) = some 0x00#8 ∧
      memRead ready (0x97 + (15 : Fin 16).val) = some 0x00#8 ∧
      answers (exec (.rdKey .addr) ready) (fun t => t.writeStart == false) = true := by decide

theorem witness_RaiseSetsTheFlagAndCoalesces :
    RoomInGuard { ready with csDepth := 254 } ∧ ¬ RoomInGuard { ready with csDepth := 255 } := by decide

theorem witness_DrainClearsTheMaskAndSetsStatus :
    RoomInGuard { ready with evMask := 0x12#8 } ∧ RoomInGuard ready := by decide

theorem witness_PollLinesUpTheHandlersInOrder : RoomInGuard { ready with evMask := 0xFF#8 } := by decide

theorem witness_MainLoopGoesIdle :
    OnlyMain { twoKeys with evMask := 0xFF#8, status := .processing } ∧
      RingSound { twoKeys with evMask := 0xFF#8, status := .processing } ∧ twoKeys.csDepth = 0 ∧ twoKeys.mainOps = [] ∧
      (pendingInOrder { twoKeys with evMask := 0xFF#8 }).length = 8 ∧ pendingInOrder twoKeys = [] ∧
      notYetSent twoKeys 0 = true ∧ notYetSent { twoKeys with mem := [(0x8F, 0x80#8)] } 7 = false := by
  unfold RingSound OnlyMain; decide

theorem witness_TimerHandlerLatchesTheNewestKey :
    (RingSound ready ∧ RoomInGuard ready ∧ OnlyMain ready ∧ entries ready = []) ∧
      RingSound twoKeys ∧ RoomInGuard twoKeys ∧ OnlyMain twoKeys ∧ (entries twoKeys).getLast? = some 7#8 := by
  unfold RingSound OnlyMain; decide

theorem witness_PowerAndCursorTypeHandlers :
    OnlyMain ready ∧ RoomInGuard ready ∧ memRead ready 0x02 = some 0x00#8 ∧ memRead ready 0x03 = some 0x20#8 ∧
      memRead ready 0x04 = some 0x00#8 := by
  unfold OnlyMain; decide

theorem witness_CursorDrawHandlerSetsTheCursor :
    OnlyMain ready ∧ RoomInGuard ready ∧ memRead ready 0x05 = some 0x00#8 ∧ memRead ready 0x06 = some 0x00#8 := by
  unfold OnlyMain; decide

theorem witness_LineHandlersCopySixteenBytes :
    OnlyMain ready ∧ RoomInGuard ready ∧ memRead ready 0x05 = some 0x00#8 ∧ memRead ready 0x06 = some 0x00#8 ∧
      (List.replicate 16 0#8).length = 16 ∧
      (∀ j, j < 16 → memRead ready (0x07 + j) = (List.replicate 16 0#8)[j]?) ∧
      ∀ j, j < 16 → memRead ready (0x2F + j) = (List.replicate 16 0#8)[j]? := by
  unfold OnlyMain; decide

theorem witness_GlyphSlotIsPushedOnce :
    RoomInGuard ready ∧ OnlyMain { ready with mainOps := [.pushSlot 7] } ∧ notYetSent ready 7 = true ∧
      notYetSent { ready with mem := [(0x8F, 0x80#8)] } 7 = false := by
  unfold OnlyMain; decide

theorem witness_SetCgramPushesEveryUnsentSlot :
    OnlyMain { ready with mainOps := [.handler .setCgram] } ∧ ready.csDepth = 0 ∧ notYetSent ready 0 = true ∧
      notYetSent { ready with mem := [(0x57, 0x20#8)] } 0 = false := by
  unfold OnlyMain; decide

theorem witness_IconHandlerPushesAllSixteen :
    OnlyMain ready ∧ RoomInGuard ready ∧ (List.replicate 16 0#8).length = 16 ∧
      ∀ j, j < 16 → memRead ready (0x97 + j) = (List.replicate 16 0#8)[j]? := by
  unfold OnlyMain; decide

theorem witness_KeypadInitOnceAtBoot : unbooted.boot = .kpInit ∧ ready.boot ≠ .kpInit := by decide

theorem witness_ScanAnswersTheFirstPressedKey :
    ringOk ready = true ∧ (∀ r, r < 4 → ∀ c, c < 4 → pressed ready.keys r c = false) ∧ pressed 0x8001#16 0 0 = true ∧
      pressed 0x8000#16 3 3 = true ∧
      ∀ r, r < 4 → ∀ c, c < 4 → 4 * r + c < 15 → pressed 0x8000#16 r c = false := by decide

theorem witness_ReadFollowsTheDebounceRules :
    ringOk ready = true ∧ kpScan 0x0020#16 ≠ ready.lastKey ∧ kpScan ready.keys = ready.lastKey ∧ ready.lastKey = 0xFF#8 ∧
      (kpScan 0x0020#16 = 5#8 ∧ 5#8 ≠ 0xFF#8) ∧ 2 + 1 = vp.tDebounce ∧ 7 + 1 = vp.tHold ∧
      11 + 1 = vp.tHold + vp.tRepeat ∧ 3 + 1 ≠ vp.tDebounce ∧ 3 + 1 ≠ vp.tHold ∧ 3 + 1 ≠ vp.tHold + vp.tRepeat := by decide

theorem witness_InsertAppendsOrFails :
    (15#8).toNat ≤ 15 ∧ (ringOk fullRing = true ∧ fullRing.ksize = vp.keyBufCap) ∧
      (ringOk twoKeys = true ∧ twoKeys.ksize ≠ vp.keyBufCap) ∧ ringOk brokenRing = false := by decide

theorem witness_BrokenRingIsAFault :
    ringOk brokenRing = false ∧ ringOk { ready with kbegin := 4 } = false ∧ ringOk { ready with kend := 1 } = false := by
  decide

theorem witness_CaptureInsertsTheReportedKey :
    ringOk { twoKeys with keys := 0x0020#16, lastKey := 5#8, checkCount := 2 } = true ∧
      answers (exec .kpRead { twoKeys with keys := 0x0020#16, lastKey := 5#8, checkCount := 2 })
        (fun t => t.result == .key 5#8) = true ∧
      answers (exec .kpRead ready) (fun t => t.result == .key 0xFF#8) = true := by decide

theorem witness_FrontTakesTheOldest :
    (ringOk ready = true ∧ ready.kbuf.length = vp.keyBufCap ∧ RoomInGuard ready ∧ ready.ksize = 0) ∧
      ringOk twoKeys = true ∧ twoKeys.kbuf.length = vp.keyBufCap ∧ RoomInGuard twoKeys ∧ twoKeys.ksize ≠ 0 := by decide

theorem witness_FinalAndClearEmptyTheRing :
    (ringOk ready = true ∧ ready.kbuf.length = vp.keyBufCap ∧ RoomInGuard ready ∧ ready.ksize = 0) ∧
      ringOk fullRing = true ∧ fullRing.kbuf.length = vp.keyBufCap ∧ RoomInGuard fullRing ∧ fullRing.ksize ≠ 0 := by decide

theorem witness_CsBeginDisablesAndCounts :
    ({ ready with csDepth := 254 }).csDepth < 255 ∧ 255 ≤ ({ ready with csDepth := 255 }).csDepth := by decide

theorem witness_CsEndCountsDownAndEnables :
    ready.csDepth = 0 ∧ ({ ready with csDepth := 1 }).csDepth = 1 ∧ 2 ≤ ({ ready with csDepth := 2 }).csDepth := by decide

theorem witness_TickCapturesAndDivides :
    ringOk ready = true ∧ RoomInGuard ready ∧ ready.tickCount + 1 ≠ ready.params.timerEventDiv ∧
      ({ ready with tickCount := 7 }).tickCount + 1 = ready.params.timerEventDiv := by decide

end Sys2Proof.Tests
end

/-! # The turns of the schedule (`spec/00_scope.md` R6, `spec/60_exceptions.md` R185)

What each turn of the environment does once the boot has ended, and the step that takes it. -/

namespace Sys2Proof.Machine

/-! ## What the transport and the timer do once the boot has ended -/

theorem slaveAttached_of_running {s : State} (hb : s.boot = .running) : slaveAttached s = true := by
  simp [slaveAttached, hb]

theorem timerStarted_of_running {s : State} (hb : s.boot = .running) : timerStarted s = true := by
  simp [timerStarted, hb]

/-- With the clock free, the master's next event is taken from its list (`spec/10_state.md` R25). -/
theorem busTurn_of_event {s : State} {e : SlaveEvent} {rest : List SlaveEvent} (hb : s.boot = .running)
    (hi : s.irqI2C = false) (hbus : s.bus = e :: rest) :
    busTurn s = { s with bus := rest, irqI2C := true, i2cEvent := e } := by
  simp [busTurn, slaveAttached_of_running hb, hi, hbus]

/-- While an event is pending the clock is stretched, at every stage of the boot (`spec/10_state.md` R25). -/
theorem busTurn_of_pending {s : State} (hi : s.irqI2C = true) : busTurn s = s := by simp [busTurn, hi]

theorem periodTurn_of_running {s : State} (hb : s.boot = .running) : periodTurn s = { s with irqTimer := true } := by
  simp [periodTurn, timerStarted_of_running hb]

/-- Another non-interrupt caller runs once the boot has ended. -/
theorem takeTurn_call_of_running {s : State} (c : MainCall) (hb : s.boot = .running) :
    takeTurn (.call c) s = exec c.instr s := by simp [takeTurn, hb]

/-! ## The step -/

/-- Settles O7: the step is `takeTurn` of the first turn (`step_turn`), and each kind of turn does what its lemma says. -/
theorem stepTakesTheTurn : Obligations.StepTakesTheTurn := by
  intro s ts hd
  refine ⟨?call, ?restart, ?keys, ?busTaken, ?busStretched, ?period⟩
  case call => exact fun c ht hb => (step_turn hd ht).trans (takeTurn_call_of_running c hb)
  case restart => exact fun ht => step_turn hd ht
  case keys => exact fun m ht => step_turn hd ht
  case busTaken =>
    exact fun e rest ht hb hi hbus => (step_turn hd ht).trans (congrArg Host.Outcome.next (busTurn_of_event hb hi hbus))
  case busStretched => exact fun ht hi => (step_turn hd ht).trans (congrArg Host.Outcome.next (busTurn_of_pending hi))
  case period => exact fun ht hb => (step_turn hd ht).trans (congrArg Host.Outcome.next (periodTurn_of_running hb))

end Sys2Proof.Machine

/-! # The steps of the block as sequences of block operations (`spec/10_state.md` R34)

The invariants of R34 are about the register map, the cursor, the event mask, the keypad and the tick divider, not about
the schedule or the guard. Here a step is cut into the operations that write those, so that each invariant is proved for
one operation at a time. -/

namespace Sys2Proof.Machine

/-! ## The data the invariants are about -/

/-- The state with every field at its reset value but the register map, the event mask, the keypad and the tick divider. -/
def State.data (s : State) : State :=
  { State.initial s.params with
    status := s.status, mem := s.mem, evMask := s.evMask, kpCfg := s.kpCfg
    lastKey := s.lastKey, checkCount := s.checkCount, kbuf := s.kbuf, kbegin := s.kbegin, kend := s.kend
    ksize := s.ksize, tickCount := s.tickCount }

/-- The ring after an insertion below the capacity (`spec/42_keypad.md` R144). -/
def State.pushKey (s : State) (k : Byte) : State :=
  { s with kbuf := s.kbuf.set s.kend k, kend := (s.kend + 1) % s.params.keyBufCap, ksize := s.ksize + 1 }

theorem kpInsert_eq_pushKey {k : Byte} {s : State} (h : s.ksize ≠ s.params.keyBufCap) :
    kpInsert k s = (true, s.pushKey k) := kpInsert_room h

/-- One operation on that data, inside a step from `o`. -/
inductive BlockOp (o s : State) : State → Prop
  /-- None of the data: the schedule, the guard, the outputs, and the cursor, which does not pass 0xA7 (R20; D9). -/
  | rest {t : State} (hd : t.data = s.data) (hc : CursorInRange s → CursorInRange t) : BlockOp o s t
  /-- A field is stored: a legal byte, or a glyph row with its sent mark (`spec/41_events_and_main_loop.md` R133). -/
  | store {f : Field} {v : Byte} (h : f.legal v = true ∨ ∃ j, f = .cgram j) : BlockOp o s (s.setField f v)
  | powerOff : BlockOp o s (powerOffReset s)
  | raise (f : EventFlag) : BlockOp o s (s.raiseFlag f)
  | drain : BlockOp o s s.drainFlags
  | read {k : Byte} {n : Nat} (h : (kpRead s).2 = { s with lastKey := k, checkCount := n }) :
      BlockOp o s { s with lastKey := k, checkCount := n }
  | insert (k : Byte) (hk : k.toNat ≤ 15) (hroom : s.ksize ≠ s.params.keyBufCap) : BlockOp o s (s.pushKey k)
  | front {b n : Nat} (h : (frontBody s).2 = { s with kbegin := b, ksize := n }) :
      BlockOp o s { s with kbegin := b, ksize := n }
  | final {b n : Nat} (h : (finalBody s).2 = { s with kbegin := b, ksize := n }) :
      BlockOp o s { s with kbegin := b, ksize := n }
  | clear : BlockOp o s { s with kbegin := 0, kend := 0, ksize := 0 }
  /-- A tick that raises no flag (`spec/44_timer_tick.md` R170). -/
  | count (h : s.tickCount + 1 ≠ s.params.timerEventDiv) : BlockOp o s { s with tickCount := s.tickCount + 1 }
  /-- A tick that raises the TIMER flag (R170). -/
  | wrap : BlockOp o s { s with tickCount := 0 }
  | init (h : o.boot = .kpInit) : BlockOp o s (kpInit o.params.pinMap s)
  | restart (h : o.turns.head? = some .restart) : BlockOp o s (State.initial s.params)

/-- Block operations in a row, inside a step from `o`. -/
abbrev BlockOps (o : State) : State → State → Prop := Relation.ReflTransGen (BlockOp o)

/-- Block operations, and then fields that are none of the data. -/
theorem BlockOps.append_rest {o s t u : State} (h : BlockOps o s t) (hd : u.data = t.data)
    (hm : u.mapAddr = t.mapAddr) : BlockOps o s u :=
  h.tail (.rest hd fun hc => by unfold CursorInRange; rwa [hm])

/-- Fields that are none of the data, and then block operations. -/
theorem BlockOps.cons_rest {o s t u : State} (h : BlockOps o t u) (hd : t.data = s.data)
    (hm : t.mapAddr = s.mapAddr) : BlockOps o s u :=
  h.head (.rest hd fun hc => by unfold CursorInRange; rwa [hm])

theorem BlockOps.of_rest {o s t : State} (hd : t.data = s.data) (hm : t.mapAddr = s.mapAddr) : BlockOps o s t :=
  BlockOps.append_rest .refl hd hm

/-- What each block operation keeps, a sequence of them keeps. -/
theorem BlockOps.keeps {I : State → Prop} {o s t : State} (hI : ∀ {u v}, BlockOp o u v → I u → I v)
    (h : BlockOps o s t) (hs : I s) : I t := by
  induction h with
  | refl => exact hs
  | tail _ hop ih => exact hI hop ih

/-! ## Slave events -/

/-- The operation leaves the cursor, or sets it to an address of the map. -/
def KeepsCursorOrSets (s : State) (i : Instr) : Prop :=
  ∀ t, exec i s = .next t → t.mapAddr = s.mapAddr ∨ t.mapAddr.toNat < 0xA7

/-- At a cursor past the map an event moves it only by an accepted address byte (`spec/10_state.md` R20; D9). -/
theorem decoded_past_map {s : State} {i : Instr} (hdec : decode (fetchBytes s) = .ok i)
    (hpast : 0xA7 ≤ s.mapAddr.toNat) : KeepsCursorOrSets s i := by
  rw [decode_fetch] at hdec
  refine decodeEvent_cases hdec ?waddr ?address ?write ?readAddr ?readAck ?rnack ?buserr
  case waddr | rnack | buserr => rintro - - t h; cases h; exact .inl rfl
  case address =>
    intro b _ _ _
    refine decodeAddress_cases b ?_ ?_
    · rintro hb t h; cases h; exact .inr hb
    · rintro - t h; cases h; exact .inl rfl
  case write =>
    intro b _ _ _
    refine decodeWrite_cases _ b ?_ ?_ ?_ ?_ ?_ ?_ ?_ ?_ ?_ ?_ fun _ t h => .inl (by cases h; rfl)
    all_goals intros; omega
  case readAddr | readAck =>
    intro _ _
    refine decodeRead_cases _ _ ?_ ?_ ?_ ?_ ?_ ?_ ?_ ?_ ?_ ?_ fun _ t h => .inl (by cases h; rfl)
    all_goals intros; omega

/-- What a common data write can leave. -/
theorem writeField_next {f : Field} {side : State → State} {e : EventFlag} {b : Byte} {s t : State}
    (h : writeField f side e b s = .ok t) :
    t = s.raiseNack ∨ t = s.advance ∨
      (f.legal b = true ∧ t = (afterBracket ((side (s.setField f b)).raiseFlag e)).advance) := by
  cases hl : f.legal b with
  | false => rw [writeField_illegal hl] at h; cases h; exact .inl rfl
  | true =>
    by_cases hb : b = s.field f
    · rw [writeField_unchanged hl hb] at h; cases h; exact .inr (.inl rfl)
    · by_cases hr : RoomInGuard (side (s.setField f b))
      · rw [writeField_changed hl hb hr] at h; cases h; exact .inr (.inr ⟨rfl, rfl⟩)
      · rw [writeField_full hl hb hr] at h; cases h

/-- The cursor after a slave event. -/
theorem slave_mapAddr {s t : State} {i : Instr} (hw : i.wf = true) (hf : i.format = .slv) (he : exec i s = .next t) :
    t.mapAddr = s.mapAddr ∨ t.mapAddr = s.mapAddr + 1#8 ∨ t.mapAddr.toNat < 0xA7 := by
  rcases slave_forms hf s with ⟨w, m, n, x, hx, -, hm⟩ | ⟨v, x, hx, -⟩ | ⟨f, side, e, b, hside, -, -, -, -, hx⟩
  · rw [hx] at he; cases he
    rcases hm with hm | rfl | ⟨hm, -⟩
    · exact .inl hm
    · exact .inr (.inr (of_decide_eq_true hw))
    · exact .inr (.inl hm)
  · rw [hx] at he; cases he; exact .inr (.inl rfl)
  · rw [hx] at he
    rcases writeField_next (toOutcome_next he) with rfl | rfl | ⟨-, rfl⟩
    · exact .inl rfl
    · exact .inr (.inl rfl)
    · rcases hside (s.beginEvent.setField f b) with h | h <;> rw [h] <;> exact .inr (.inl rfl)

/-- A slave event keeps the cursor at or below 0xA7 (`spec/10_state.md` R20; D9). -/
theorem slave_cursorInRange {s t : State} {i : Instr} (hdec : decode (fetchBytes s) = .ok i)
    (he : exec i s = .next t) (hs : CursorInRange s) : CursorInRange t := by
  obtain ⟨hw, hf⟩ := decode_slv hdec
  unfold CursorInRange at *
  by_cases hpast : 0xA7 ≤ s.mapAddr.toNat
  · rcases decoded_past_map hdec hpast t he with h | h
    · rwa [h]
    · omega
  · rcases slave_mapAddr hw hf he with h | h | h
    · rwa [h]
    · rw [h, BitVec.toNat_add]
      simp only [BitVec.toNat_ofNat]
      omega
    · omega

/-- A slave event as block operations: the protocol's registers; a store of `keyValue`; or a common data write. -/
theorem slave_blockOps {o s t : State} {i : Instr} (hdec : decode (fetchBytes s) = .ok i)
    (he : exec i s = .next t) : BlockOps o s t := by
  have hc : CursorInRange s → CursorInRange t := slave_cursorInRange hdec he
  rcases slave_forms (decode_slv hdec).2 s with
    ⟨w, m, n, x, hx, -, -⟩ | ⟨v, x, hx, -⟩ | ⟨f, side, e, b, hside, -, -, -, -, hx⟩
  · rw [hx] at he; cases he
    exact .single (.rest rfl hc)
  · rw [hx] at he; cases he
    have hstore : BlockOps o s (s.setField .keyValue v) := .single (.store (.inl rfl))
    exact hstore.tail (.rest rfl hc)
  · rw [hx] at he
    have hbegin : BlockOps o s s.beginEvent := .of_rest rfl rfl
    rcases writeField_next (toOutcome_next he) with rfl | rfl | ⟨hl, rfl⟩
    · exact hbegin.tail (.rest rfl hc)
    · exact hbegin.tail (.rest rfl hc)
    · have hstore : BlockOps o s (s.beginEvent.setField f b) := hbegin.tail (.store (.inl hl))
      rcases hside (s.beginEvent.setField f b) with h | h <;> rw [h] at hc ⊢
      · exact (hstore.tail (.raise e)).tail (.rest rfl hc)
      · exact ((hstore.tail .powerOff).tail (.raise e)).tail (.rest rfl hc)

/-! ## The keypad and the tick -/

/-- A scan answers a key code or "no key" (`spec/30_encoding.md` R70). -/
theorem kpScan_keyCode (m : KeyMatrix) : (kpScan m).toNat ≤ 15 ∨ kpScan m = keyNone := by
  unfold kpScan
  split
  · next r c h =>
    have hmem : (r, c) ∈ scanOrder := List.mem_of_find?_eq_some h
    obtain ⟨hr, hc⟩ : r < 4 ∧ c < 4 := by simpa [scanOrder] using hmem
    left
    simp only [keyCode, BitVec.toNat_ofNat]
    omega
  · exact .inr rfl

/-- A read reports a key code or "no key". -/
theorem kpRead_keyCode (s : State) : (kpRead s).1.toNat ≤ 15 ∨ (kpRead s).1 = keyNone := by
  have hscan := kpScan_keyCode s.keys
  rcases kpRead_cases s with
    ⟨-, h⟩ | ⟨-, -, h⟩ | ⟨hk, -, -, h⟩ | ⟨hk, -, -, -, -, h⟩ | ⟨-, -, -, -, -, h⟩ <;> rw [h]
  · exact .inr rfl
  · exact .inr rfl
  · rwa [← hk]
  · rwa [← hk]
  · exact .inr rfl

theorem kpRead_blockOps (o s : State) : BlockOps o s (kpRead s).2 := by
  have h := kpRead_frame s
  rw [h]
  exact .single (.read h)

/-- A capture is a read, and the insertion of the reported key if there is one and room for it (`spec/42_keypad.md`
R145). -/
theorem kpCapture_blockOps (o : State) {s t : State} (h : kpCapture s = .ok t) : BlockOps o s t := by
  obtain ⟨hr, -⟩ := withRing_next h
  rw [kpCapture_ok hr] at h
  injection h with h
  subst h
  have hread := kpRead_blockOps o s
  split
  · exact hread
  · next hk =>
    have hcode := (kpRead_keyCode s).resolve_right hk
    by_cases hfull : (kpRead s).2.ksize = (kpRead s).2.params.keyBufCap
    · rw [kpInsert_full hfull]; exact hread
    · rw [kpInsert_eq_pushKey hfull]
      exact hread.tail (.insert _ hcode hfull)

theorem tick_blockOps (o : State) {s t : State} (h : exec .tick s = .next t) : BlockOps o s t := by
  obtain ⟨u, hu, hcases⟩ := tick_next h
  have hcap := kpCapture_blockOps o hu
  have hframe := kpCapture_frame hu
  have htick : u.tickCount = s.tickCount := by rw [hframe]
  have hparams : u.params = s.params := by rw [hframe]
  rw [← htick, ← hparams] at hcases
  rcases hcases with ⟨hne, rfl⟩ | ⟨-, rfl⟩
  · exact hcap.tail (.count hne)
  · exact BlockOps.append_rest ((hcap.tail .wrap).tail (.raise .timer)) rfl rfl

theorem frontBody_blockOps (o s : State) : BlockOps o s (frontBody s).2 := by
  have h := frontBody_frame s
  rw [h]
  exact .single (.front h)

theorem finalBody_blockOps (o s : State) : BlockOps o s (finalBody s).2 := by
  have h := finalBody_frame s
  rw [h]
  exact .single (.final h)

/-! ## The guard's two operations -/

theorem csBegin_next {s t : State} (h : exec .csBegin s = .next t) :
    s.csDepth < 255 ∧ t = { s with gie := false, csDepth := s.csDepth + 1 } := by
  have h' := toOutcome_next (x := csBegin s) h
  by_cases hr : RoomInGuard s
  · rw [csBegin_room hr] at h'; cases h'; exact ⟨hr, rfl⟩
  · rw [csBegin_full hr] at h'; cases h'

theorem csEnd_next {s t : State} (h : exec .csEnd s = .next t) :
    (s.csDepth = 1 ∧ t = { s with csDepth := 0, gie := true }) ∨
      (2 ≤ s.csDepth ∧ t = { s with csDepth := s.csDepth - 1 }) := by
  have h' := toOutcome_next (x := csEnd s) h
  rcases csEnd_cases s with ⟨-, e⟩ | ⟨hd, e⟩ | ⟨hd, e⟩ <;> rw [e] at h' <;> cases h'
  · exact .inl ⟨hd, rfl⟩
  · exact .inr ⟨hd, rfl⟩

/-! ## The main loop and the other callers -/

theorem pushSlot_blockOps (o : State) {n : Fin 8} {s t : State} (h : pushSlot n s = .ok t) : BlockOps o s t := by
  obtain ⟨⟨cs, ht⟩, hm | hm⟩ := pushSlot_next h
  · rw [hm] at ht; subst ht
    exact .of_rest rfl rfl
  · rw [hm] at ht; subst ht
    have hmark : BlockOps o s (s.setField (slotFirst n) (s.field (slotFirst n) ||| s.params.cgramSentMark)) :=
      .single (.store (.inr ⟨_, rfl⟩))
    exact hmark.append_rest rfl rfl

theorem handler_blockOps (o : State) {f : EventFlag} {s t : State} (h : exec f.handler s = .next t) :
    BlockOps o s t := by
  cases f with
  | timer =>
    obtain ⟨-, rfl⟩ := dspTimer_next h
    exact (finalBody_blockOps o s).append_rest rfl rfl
  | setCgram => exact pushSlot_blockOps o (toOutcome_next (x := pushSlot 0 s) h)
  | powerContrast | cursorSet | cursorDraw | drawLine0 | drawLine1 | drawIcon =>
    obtain ⟨cs, rfl⟩ := display_next (by simp [EventFlag.handler]) h
    exact .of_rest rfl rfl

theorem call_blockOps (o : State) {c : MainCall} {s t : State} (h : exec c.instr s = .next t) : BlockOps o s t := by
  cases c with
  | kpRead =>
    obtain ⟨-, rfl⟩ := kpRead_next h
    exact (kpRead_blockOps o s).append_rest rfl rfl
  | kpFront =>
    obtain ⟨-, rfl⟩ := kpFront_next h
    exact (frontBody_blockOps o s).append_rest rfl rfl
  | kpFinal =>
    obtain ⟨-, rfl⟩ := kpFinal_next h
    exact (finalBody_blockOps o s).append_rest rfl rfl
  | kpClear =>
    obtain ⟨-, rfl⟩ := kpClear_next h
    exact BlockOps.append_rest (.single .clear) rfl rfl
  | csBegin =>
    obtain ⟨-, rfl⟩ := csBegin_next h
    exact .of_rest rfl rfl
  | csEnd => rcases csEnd_next h with ⟨-, rfl⟩ | ⟨-, rfl⟩ <;> exact .of_rest rfl rfl

/-! ## The step -/

/-- Every step is a sequence of block operations. -/
theorem step_blockOps {s t : State} (h : step s = .next t) : BlockOps s s t := by
  cases step_next h with
  | slave i n u _ _ _ hdec he ht =>
    subst ht
    have hevent : BlockOps s { s with inIsr := true, irqI2C := false, arbCount := n } u := slave_blockOps hdec he
    have hops : BlockOps s s u := hevent.cons_rest rfl rfl
    exact hops.append_rest rfl rfl
  | tick n u _ _ he ht =>
    subst ht
    have hops : BlockOps s s u := (tick_blockOps s he).cons_rest rfl rfl
    exact hops.append_rest rfl rfl
  | kpInit ts _ hb ht => subst ht; exact BlockOps.append_rest (.single (.init hb)) rfl rfl
  | boot ts b _ _ _ ht => rcases ht with ⟨-, -, rfl⟩ | rfl <;> exact .of_rest rfl rfl
  | poll ts _ _ _ he => rw [mlPoll_next he]; exact BlockOps.append_rest (.single .drain) rfl rfl
  | handler ts f rest _ _ _ he => exact (handler_blockOps s he).cons_rest rfl rfl
  | latch ts k rest _ _ _ ht =>
    subst ht
    have hstore : BlockOps s s (s.setField .keyValue k) := .single (.store (.inl rfl))
    exact hstore.append_rest rfl rfl
  | push ts n rest _ _ _ he => exact (pushSlot_blockOps s he).cons_rest rfl rfl
  | lcdCall ts c rest _ _ _ ht => subst ht; exact .of_rest rfl rfl
  | call ts c _ _ _ he => exact (call_blockOps s he).cons_rest rfl rfl
  | restart ts _ hs he =>
    cases he
    exact BlockOps.append_rest (.single (.restart (by rw [hs]; rfl))) rfl rfl
  | arrival _ ht _ _ => exact .of_rest (congrArg State.data ht :) (congrArg State.mapAddr ht :)

/-- What every block operation inside a step keeps, the step keeps. -/
theorem step_keeps {I : State → Prop} {s t : State} (h : step s = .next t)
    (hI : ∀ {u v}, BlockOp s u v → I u → I v) (hs : I s) : I t := (step_blockOps h).keeps hI hs

/-- A predicate of the data alone does not see anything else. -/
theorem of_data_eq {I : State → Prop} (hI : ∀ u, I u.data ↔ I u) {s t : State} (h : t.data = s.data) (hs : I s) :
    I t :=
  (hI t).1 (h ▸ (hI s).2 hs)

end Sys2Proof.Machine

/-! # The invariants of the block (`spec/10_state.md` R20 to R34)

Each is kept by every block operation, so by every step (`step_keeps`), and holds at reset. -/

namespace Sys2Proof.Machine

/-! ## The register map -/

/-- Every validated field holds a byte the master may store; the glyph rows also hold sent marks. -/
theorem fieldsInRange_iff (s : State) :
    FieldsInRange s ↔ ∀ f : Field, (∀ j, f ≠ .cgram j) → f.legal (s.field f) = true := by
  constructor
  · rintro ⟨hpower, hcontrast, htype, hrow, hcol, hicon⟩ f hf
    cases f with
    | keyValue | display j => rfl
    | power => exact (legal_power _).2 hpower
    | contrast => exact (legal_contrast _).2 hcontrast
    | cursorType => exact (legal_cursorType _).2 htype
    | cursorRow => exact (legal_cursorRow _).2 hrow
    | cursorCol => exact (legal_cursorCol _).2 hcol
    | cgram j => exact absurd rfl (hf j)
    | icon j => exact (legal_icon j _).2 (hicon j)
  · intro h
    exact ⟨(legal_power _).1 (h .power nofun), (legal_contrast _).1 (h .contrast nofun),
      (legal_cursorType _).1 (h .cursorType nofun), (legal_cursorRow _).1 (h .cursorRow nofun),
      (legal_cursorCol _).1 (h .cursorCol nofun), fun i => (legal_icon i _).1 (h (.icon i) nofun)⟩

theorem fieldsInRange_setField {s : State} {f : Field} {v : Byte} (hv : f.legal v = true ∨ ∃ j, f = .cgram j)
    (hs : FieldsInRange s) : FieldsInRange (s.setField f v) := by
  rw [fieldsInRange_iff] at hs ⊢
  intro g hg
  rw [field_setField]
  by_cases hgf : g = f
  · subst hgf
    rw [if_pos rfl]
    exact hv.resolve_right fun ⟨j, hj⟩ => hg j hj
  · rw [if_neg hgf]
    exact hs g hg

/-- The power-off reset leaves `power` and `keyValue` and stores defaults, which are in range (`spec/40_slave_engine.md`
R88; D13). -/
theorem fieldsInRange_powerOffReset {s : State} (hs : FieldsInRange s) : FieldsInRange (powerOffReset s) := by
  obtain ⟨hpower, -⟩ := hs
  simp only [State.field, Field.addr] at hpower
  simp only [FieldsInRange, State.field, Field.addr, powerOffReset_read]
  refine ⟨by simpa using hpower, by simp [Config.contrastDefault], by simp [Config.cursorTypeDefault],
    by simp [Config.cursorRowDefault], by simp [Config.cursorColDefault], fun i => ?_⟩
  rw [if_pos (by omega)]
  decide

theorem fieldsInRange_initial (p : Params) : FieldsInRange (State.initial p) := by
  have hfield : ∀ f : Field, (State.initial p).field f = Memory.unlisted f.addr := fun _ => rfl
  simp only [FieldsInRange, hfield, Field.addr]
  refine ⟨by decide, by decide, by decide, by decide, by decide, fun i => ?_⟩
  rw [Memory.unlisted, if_neg (by omega), if_neg (by omega), if_neg (by omega)]
  decide

theorem BlockOp.keeps_memCanonical {o s t : State} (h : BlockOp o s t) (hs : MemCanonical s) : MemCanonical t := by
  cases h with
  | rest hd => exact of_data_eq (fun _ => Iff.rfl) hd hs
  | store => exact Memory.wf_write _ hs (Field.addr_pos _) (Field.addr_lt _)
  | powerOff => exact powerOffReset_wf hs
  | restart => exact reset_mem_wf
  | _ => exact hs

theorem BlockOp.keeps_fieldsInRange {o s t : State} (h : BlockOp o s t) (hs : FieldsInRange s) : FieldsInRange t := by
  cases h with
  | rest hd => exact of_data_eq (fun _ => Iff.rfl) hd hs
  | store hv => exact fieldsInRange_setField hv hs
  | powerOff => exact fieldsInRange_powerOffReset hs
  | restart => exact fieldsInRange_initial _
  | _ => exact hs

/-- Settles O11: the canonical form and the ranges are kept by every block operation, so by every step. -/
theorem stepKeepsTheMapInRange : Obligations.StepKeepsTheMapInRange :=
  fun _ _ h => ⟨step_keeps h BlockOp.keeps_memCanonical, step_keeps h BlockOp.keeps_fieldsInRange⟩

/-! ## The cursor and `status` -/

theorem BlockOp.keeps_cursorInRange {o s t : State} (h : BlockOp o s t) (hs : CursorInRange s) : CursorInRange t := by
  cases h with
  | rest _ hc => exact hc hs
  | restart => exact Nat.zero_le _
  | _ => exact hs

theorem BlockOp.keeps_pendingIsProcessing {o s t : State} (h : BlockOp o s t) (hs : PendingIsProcessing s) :
    PendingIsProcessing t := by
  cases h with
  | rest hd => exact of_data_eq (fun _ => Iff.rfl) hd hs
  | raise => exact fun _ => rfl
  | drain | restart => exact fun hne => absurd rfl hne
  | _ => exact hs

/-- Settles O12: the cursor moves within the map and to 0xA7 only, and a flag is raised together with PROCESSING. -/
theorem stepKeepsCursorAndStatus : Obligations.StepKeepsCursorAndStatus :=
  fun _ _ h => ⟨step_keeps h BlockOp.keeps_cursorInRange, step_keeps h BlockOp.keeps_pendingIsProcessing⟩

/-! ## The ring as a queue (`spec/10_state.md` R28) -/

/-- The index invariant of the ring, with its N cells. -/
def RingIndices (s : State) : Prop :=
  1 ≤ s.params.keyBufCap ∧ s.kbuf.length = s.params.keyBufCap ∧ s.ksize ≤ s.params.keyBufCap ∧
    s.kbegin < s.params.keyBufCap ∧ s.kend = (s.kbegin + s.ksize) % s.params.keyBufCap

/-- A sound ring: the index invariant, and a key code in every live entry. -/
theorem ringSound_iff (s : State) : RingSound s ↔ RingIndices s ∧ ∀ k ∈ entries s, k.toNat ≤ 15 := by
  simp only [RingSound, RingIndices, entries, List.mem_map, List.mem_range, forall_exists_index, and_imp,
    forall_apply_eq_imp_iff₂, and_assoc]

theorem length_entries (s : State) : (entries s).length = s.ksize := by simp [entries]

/-- Different live entries lie in different cells. -/
theorem ring_cell_ne {b n j c : Nat} (hj : j < n) (hn : n < c) : (b + j) % c ≠ (b + n) % c := fun h =>
  hj.ne (Nat.ModEq.eq_of_lt_of_lt (Nat.ModEq.add_left_cancel' b h) (hj.trans hn) hn)

theorem RingIndices.pushKey {s : State} (h : RingIndices s) (k : Byte) (hroom : s.ksize ≠ s.params.keyBufCap) :
    RingIndices (s.pushKey k) := by
  obtain ⟨hcap, hlen, hsize, hbegin, hend⟩ := h
  refine ⟨hcap, (List.length_set ..).trans hlen, by change s.ksize + 1 ≤ s.params.keyBufCap; omega, hbegin, ?_⟩
  change (s.kend + 1) % s.params.keyBufCap = (s.kbegin + (s.ksize + 1)) % s.params.keyBufCap
  rw [hend, Nat.mod_add_mod, Nat.add_assoc]

/-- An insertion below the capacity appends. -/
theorem entries_pushKey {s : State} (h : RingIndices s) (k : Byte) (hroom : s.ksize ≠ s.params.keyBufCap) :
    entries (s.pushKey k) = entries s ++ [k] := by
  obtain ⟨hcap, hlen, hsize, -, hend⟩ := h
  simp only [entries, State.pushKey, List.range_succ, List.map_append, List.map_cons, List.map_nil]
  have hlast : s.kend < s.kbuf.length := by rw [hend, hlen]; exact Nat.mod_lt _ hcap
  congr 1
  · refine List.map_congr_left fun j hj => ?_
    have hcell := ring_cell_ne (b := s.kbegin) (List.mem_range.1 hj) (lt_of_le_of_ne hsize hroom)
    rw [← hend] at hcell
    simp [List.getD, List.getElem?_set_ne hcell.symm]
  · rw [← hend]
    simp [List.getD, hlast]

theorem RingIndices.frontBody {s : State} (h : RingIndices s) : RingIndices (frontBody s).2 := by
  unfold Machine.frontBody
  split
  · exact h
  · obtain ⟨hcap, hlen, hsize, hbegin, hend⟩ := h
    refine ⟨hcap, hlen, (Nat.sub_le ..).trans hsize, Nat.mod_lt _ hcap, ?_⟩
    change s.kend = ((s.kbegin + 1) % s.params.keyBufCap + (s.ksize - 1)) % s.params.keyBufCap
    rw [hend, Nat.mod_add_mod]
    congr 1
    omega

/-- The front read takes the oldest entry, or answers "no key" (`spec/42_keypad.md` R146). -/
theorem frontBody_entries {s : State} (h : RingIndices s) :
    (frontBody s).1 = (entries s).head?.getD keyNone ∧ entries (frontBody s).2 = (entries s).tail := by
  obtain ⟨-, -, -, hbegin, -⟩ := h
  unfold frontBody
  cases hn : s.ksize with
  | zero => simp [entries, hn]
  | succ n =>
    have hentries : entries s = s.kbuf.getD s.kbegin keyNone ::
        (List.range n).map fun j => s.kbuf.getD ((s.kbegin + (j + 1)) % s.params.keyBufCap) keyNone := by
      simp [entries, hn, List.range_succ_eq_map, Nat.mod_eq_of_lt hbegin, Function.comp_def]
    rw [hentries, if_neg (Nat.succ_ne_zero n)]
    refine ⟨rfl, List.map_congr_left fun j _ => ?_⟩
    dsimp only
    rw [Nat.mod_add_mod, Nat.add_assoc, Nat.add_comm 1 j]

theorem RingIndices.finalBody {s : State} (h : RingIndices s) : RingIndices (finalBody s).2 := by
  unfold Machine.finalBody
  split
  · exact h
  · obtain ⟨hcap, hlen, -, -, hend⟩ := h
    have hlt : s.kend < s.params.keyBufCap := by rw [hend]; exact Nat.mod_lt _ hcap
    exact ⟨hcap, hlen, Nat.zero_le _, hlt, (Nat.mod_eq_of_lt hlt).symm⟩

/-- The cell before the end of the ring is the newest entry's. -/
theorem newest_cell {s : State} (h : RingIndices s) {n : Nat} (hn : s.ksize = n + 1) :
    (s.kend + s.params.keyBufCap - 1) % s.params.keyBufCap = (s.kbegin + n) % s.params.keyBufCap := by
  obtain ⟨hcap, -, -, -, hend⟩ := h
  calc (s.kend + s.params.keyBufCap - 1) % s.params.keyBufCap
      = ((s.kbegin + s.ksize) % s.params.keyBufCap + (s.params.keyBufCap - 1)) % s.params.keyBufCap := by
        rw [hend, Nat.add_sub_assoc hcap]
    _ = (s.kbegin + n + s.params.keyBufCap) % s.params.keyBufCap := by
        rw [Nat.mod_add_mod]; congr 1; omega
    _ = (s.kbegin + n) % s.params.keyBufCap := Nat.add_mod_right ..

/-- The final read takes the newest entry, or answers "no key", and empties the ring (`spec/42_keypad.md` R147; D22). -/
theorem finalBody_entries {s : State} (h : RingIndices s) :
    (finalBody s).1 = (entries s).getLast?.getD keyNone ∧ entries (finalBody s).2 = [] := by
  unfold finalBody
  cases hn : s.ksize with
  | zero => simp [entries, hn]
  | succ n =>
    rw [if_neg (Nat.succ_ne_zero n)]
    exact ⟨by simp [entries, hn, List.range_succ, newest_cell h hn], rfl⟩

theorem RingSound.indices {s : State} (h : RingSound s) : RingIndices s := ((ringSound_iff s).1 h).1

theorem ringSound_initial {p : Params} (h : 1 ≤ p.keyBufCap) : RingSound (State.initial p) :=
  ⟨h, List.length_replicate, Nat.zero_le _, h, (Nat.zero_mod _).symm, nofun⟩

theorem BlockOp.keeps_ringSound {o s t : State} (h : BlockOp o s t) (hs : RingSound s) : RingSound t := by
  obtain ⟨hidx, hkeys⟩ := (ringSound_iff s).1 hs
  cases h with
  | rest hd => exact of_data_eq (fun _ => Iff.rfl) hd hs
  | insert k hk hroom =>
    refine (ringSound_iff _).2 ⟨hidx.pushKey k hroom, fun x hx => ?_⟩
    rw [entries_pushKey hidx k hroom] at hx
    rcases List.mem_append.1 hx with hx | hx
    · exact hkeys x hx
    · rwa [List.mem_singleton.1 hx]
  | front h =>
    rw [← h, ringSound_iff, (frontBody_entries hidx).2]
    exact ⟨hidx.frontBody, fun x hx => hkeys x (List.mem_of_mem_tail hx)⟩
  | final h =>
    rw [← h, ringSound_iff, (finalBody_entries hidx).2]
    exact ⟨hidx.finalBody, nofun⟩
  | clear | init =>
    obtain ⟨hcap, hlen, -⟩ := hidx
    exact ⟨hcap, hlen, Nat.zero_le _, hcap, (Nat.zero_mod _).symm, nofun⟩
  | restart =>
    obtain ⟨hcap, -⟩ := hidx
    exact ringSound_initial hcap
  | _ => exact hs

/-- Settles O13: an insertion appends a key code (`entries_pushKey`), and the other operations of the ring only take entries
away. -/
theorem stepKeepsTheRingSound : Obligations.StepKeepsTheRingSound :=
  fun _ _ hs h => step_keeps h BlockOp.keeps_ringSound hs

/-- Settles O27: the entries of the ring after each keypad operation, by the lemmas about `pushKey`, `frontBody` and
`finalBody`. -/
theorem ringBufferIsAQueue : Obligations.RingBufferIsAQueue := by
  intro s hs hroom
  have hidx := hs.indices
  have hok := hs.ringOk
  simp only [length_entries]
  refine ⟨fun k => ?insert, ?front, ?final, ?clear⟩
  case insert =>
    refine ⟨{ (kpInsert k s).2 with result := .inserted (kpInsert k s).1 }, ?_, fun hlt => ?_, fun hfull => ?_⟩
    · change toOutcomeWith CallResult.inserted (withRing s (.ok (kpInsert k s))) = _
      rw [withRing_ok hok]
      rfl
    · rw [kpInsert_eq_pushKey hlt.ne]
      exact ⟨rfl, entries_pushKey hidx k hlt.ne⟩
    · rw [kpInsert_full hfull]
      exact ⟨rfl, rfl⟩
  case front =>
    obtain ⟨hkey, hentries⟩ := frontBody_entries hidx
    refine ⟨_, congrArg (toOutcomeWith CallResult.key) (kpFront_ok hok hroom), congrArg CallResult.key hkey, hentries⟩
  case final =>
    obtain ⟨hkey, hentries⟩ := finalBody_entries hidx
    refine ⟨_, congrArg (toOutcomeWith CallResult.key) (kpFinal_ok hok hroom), congrArg CallResult.key hkey, hentries⟩
  case clear => exact ⟨_, congrArg toOutcome (kpClear_ok hok hroom), rfl⟩

/-! ## The debounce run and the tick divider (`spec/10_state.md` R27, R29) -/

/-- A read keeps the run within its range: `checkCount` is set back at `T_HOLD + T_REPEAT` (`spec/42_keypad.md` R142;
D20). -/
theorem kpRead_debounceBounded {s : State} (hs : DebounceBounded s) : DebounceBounded (kpRead s).2 := by
  obtain ⟨hwf, hkey, hcount⟩ := hs
  have ⟨_, hdeb, hhold, hrep, _⟩ := hwf
  have hscan := kpScan_keyCode s.keys
  rcases kpRead_cases s with
    ⟨-, h⟩ | ⟨-, -, h⟩ | ⟨-, -, hn, h⟩ | ⟨-, -, -, -, hn, h⟩ | ⟨-, -, -, -, hn, h⟩ <;> rw [h]
  · exact ⟨hwf, hscan, by change 1 ≤ s.params.tHold + s.params.tRepeat - 1; omega⟩
  · exact ⟨hwf, hkey, hcount⟩
  · exact ⟨hwf, hkey, by change s.checkCount + 1 ≤ s.params.tHold + s.params.tRepeat - 1; omega⟩
  · exact ⟨hwf, hkey, by change s.params.tHold ≤ s.params.tHold + s.params.tRepeat - 1; omega⟩
  · exact ⟨hwf, hkey, by change s.checkCount + 1 ≤ s.params.tHold + s.params.tRepeat - 1; omega⟩

theorem BlockOp.keeps_debounceBounded {o s t : State} (h : BlockOp o s t) (hs : DebounceBounded s) :
    DebounceBounded t := by
  cases h with
  | rest hd => exact of_data_eq (fun _ => Iff.rfl) hd hs
  | read h => exact h ▸ kpRead_debounceBounded hs
  | init | restart => exact ⟨hs.1, .inr rfl, Nat.zero_le _⟩
  | _ => exact hs

theorem BlockOp.keeps_tickBounded {o s t : State} (h : BlockOp o s t) (hs : TickBounded s) : TickBounded t := by
  cases h with
  | rest hd => exact of_data_eq (fun _ => Iff.rfl) hd hs
  | count hne => exact lt_of_le_of_ne hs hne
  | wrap | restart => exact Nat.zero_lt_of_lt hs
  | _ => exact hs

/-- Settles O14: only a read moves the debounce run (`kpRead_debounceBounded`), and a tick starts the divider again at
`TIMER_EVENT_DIV`. -/
theorem stepKeepsTheCountersBounded : Obligations.StepKeepsTheCountersBounded :=
  fun _ _ h => ⟨step_keeps h BlockOp.keeps_debounceBounded, step_keeps h BlockOp.keeps_tickBounded⟩

/-! ## The parameters and the pin table -/

theorem BlockOp.params_eq {o s t : State} (h : BlockOp o s t) : t.params = s.params := by
  cases h with
  | rest hd => exact of_data_eq (I := fun u => u.params = s.params) (fun _ => Iff.rfl) hd rfl
  | _ => rfl

/-- Where the pin table of `t`, inside a step from `o`, comes from. -/
def PinTableFrom (o t : State) : Prop :=
  t.kpCfg = o.kpCfg ∨ (o.boot = .kpInit ∧ t.kpCfg = o.params.pinMap) ∨ o.turns.head? = some .restart

theorem BlockOp.keeps_pinTableFrom {o s t : State} (h : BlockOp o s t) (hs : PinTableFrom o s) : PinTableFrom o t := by
  cases h with
  | rest hd => exact of_data_eq (fun _ => Iff.rfl) hd hs
  | init hb => exact .inr (.inl ⟨hb, rfl⟩)
  | restart hr => exact .inr (.inr hr)
  | _ => exact hs

/-- Settles O16: no block operation writes the parameters, and only `init` and `restart` the pin table. -/
theorem parametersAndPinTableStay : Obligations.ParametersAndPinTableStay := fun s _ h =>
  ⟨step_keeps h (I := fun u => u.params = s.params) (fun hop hu => hop.params_eq.trans hu) rfl,
    step_keeps h (I := PinTableFrom s) BlockOp.keeps_pinTableFrom (.inl rfl)⟩

end Sys2Proof.Machine

/-! # The guard between steps (`spec/10_state.md` R24, R34, `spec/60_exceptions.md` R186) -/

namespace Sys2Proof.Machine

/-! ## What an operation leaves of the guard -/

/-- From `s` to `t` every bracket that was opened was closed, and nothing else has touched the guard: `gie` is as it was, or
1 exactly outside every bracket (`spec/43_critical_section.md` R161). -/
def GuardKept (s t : State) : Prop :=
  t.csDepth = s.csDepth ∧ t.boot = s.boot ∧ t.inIsr = s.inIsr ∧ (t.gie = s.gie ∨ t.gie = decide (s.csDepth = 0))

theorem GuardKept.refl (s : State) : GuardKept s s := ⟨rfl, rfl, rfl, .inl rfl⟩

theorem GuardKept.afterBracket {s t : State} (h : GuardKept s t) : GuardKept s (afterBracket t) := by
  obtain ⟨hdepth, hboot, hisr, -⟩ := h
  exact ⟨hdepth, hboot, hisr, .inr (by rw [afterBracket_gie, hdepth])⟩

theorem kpRead_guardKept (s : State) : GuardKept s (kpRead s).2 := by rw [kpRead_frame]; exact .refl s

theorem frontBody_guardKept (s : State) : GuardKept s (frontBody s).2 := by rw [frontBody_frame]; exact .refl s

theorem finalBody_guardKept (s : State) : GuardKept s (finalBody s).2 := by rw [finalBody_frame]; exact .refl s

theorem kpCapture_guardKept {s t : State} (h : kpCapture s = .ok t) : GuardKept s t := by
  rw [kpCapture_frame h]; exact .refl s

theorem slave_guardKept {s t : State} {i : Instr} (hf : i.format = .slv) (he : exec i s = .next t) : GuardKept s t := by
  rcases slave_forms hf s with ⟨w, m, n, x, hx, -, -⟩ | ⟨v, x, hx, -⟩ | ⟨f, side, e, b, hside, -, -, -, -, hx⟩
  · rw [hx] at he; cases he; exact .refl s
  · rw [hx] at he; cases he; exact .refl s
  · rw [hx] at he
    rcases writeField_next (toOutcome_next he) with rfl | rfl | ⟨-, rfl⟩
    · exact .refl s
    · exact .refl s
    · rcases hside (s.beginEvent.setField f b) with h | h <;> rw [h] <;> exact ⟨rfl, rfl, rfl, .inr rfl⟩

theorem tick_guardKept {s t : State} (h : exec .tick s = .next t) : GuardKept s t := by
  obtain ⟨u, hu, hcases⟩ := tick_next h
  have hcap := kpCapture_guardKept hu
  rcases hcases with ⟨-, rfl⟩ | ⟨-, rfl⟩
  · exact hcap
  · have hraise : GuardKept s (State.raiseFlag { u with tickCount := 0 } .timer) := hcap
    exact hraise.afterBracket

theorem pushSlot_guardKept {n : Fin 8} {s t : State} (h : pushSlot n s = .ok t) : GuardKept s t := by
  obtain ⟨⟨cs, ht⟩, -⟩ := pushSlot_next h
  rw [ht]
  exact ⟨rfl, rfl, rfl, .inr rfl⟩

theorem handler_guardKept {f : EventFlag} {s t : State} (h : exec f.handler s = .next t) : GuardKept s t := by
  cases f with
  | timer =>
    obtain ⟨-, rfl⟩ := dspTimer_next h
    exact (finalBody_guardKept s).afterBracket
  | setCgram => exact pushSlot_guardKept (toOutcome_next (x := pushSlot 0 s) h)
  | powerContrast | cursorSet | cursorDraw | drawLine0 | drawLine1 | drawIcon =>
    obtain ⟨cs, rfl⟩ := display_next (by simp [EventFlag.handler]) h
    exact (GuardKept.refl s).afterBracket

/-! ## The balance -/

theorem GuardBalanced.running_of_canDeliver {s : State} (hs : GuardBalanced s) (hd : canDeliver s = true) :
    s.boot = .running := by
  obtain ⟨-, -, -, hgie⟩ := hs
  exact (hgie.1 ((canDeliver_iff s).1 hd).1).1

/-- After the boot, an operation that closes its brackets keeps the balance. -/
theorem GuardBalanced.of_kept {s t : State} (hs : GuardBalanced s) (hb : s.boot = .running)
    (hdepth : t.csDepth = s.csDepth) (hboot : t.boot = s.boot) (hisr : t.inIsr = false)
    (hgie : t.gie = s.gie ∨ t.gie = decide (s.csDepth = 0)) : GuardBalanced t := by
  obtain ⟨hmax, -, -, hiff⟩ := hs
  have hboot' : t.boot = .running := hboot.trans hb
  refine ⟨hdepth ▸ hmax, hisr, fun hne => absurd hboot' hne, ?_⟩
  rw [hdepth]
  rcases hgie with h | h <;> rw [h]
  · rw [hiff, hb, hboot']
  · simp [hboot']

theorem GuardBalanced.of_guardKept {s t : State} (hs : GuardBalanced s) (hb : s.boot = .running)
    (h : GuardKept s t) : GuardBalanced t := by
  obtain ⟨hdepth, hboot, hisr, hgie⟩ := h
  exact hs.of_kept hb hdepth hboot (hisr.trans hs.2.1) hgie

/-- During the boot the depth is 0 and interrupts are disabled, so the next stage keeps the balance. -/
theorem GuardBalanced.of_boot {s t : State} (hs : GuardBalanced s) (hb : s.boot ≠ .running)
    (hdepth : t.csDepth = s.csDepth) (hisr : t.inIsr = s.inIsr)
    (ht : t.boot ≠ .running ∧ t.gie = s.gie ∨ t.boot = .running ∧ t.gie = true) : GuardBalanced t := by
  obtain ⟨hmax, hisr', hzero, hiff⟩ := hs
  have hdepth' : t.csDepth = 0 := hdepth.trans (hzero hb)
  refine ⟨hdepth ▸ hmax, hisr.trans hisr', fun _ => hdepth', ?_⟩
  rcases ht with ⟨hboot, hgie⟩ | ⟨hboot, hgie⟩
  · rw [hgie, hiff]; simp [hb, hboot]
  · simp [hgie, hboot, hdepth']

theorem guardBalanced_initial (p : Params) : GuardBalanced (State.initial p) :=
  ⟨Nat.zero_le _, rfl, fun _ => rfl, by simp [State.initial]⟩

/-- Another caller's operation keeps the balance: the keypad's close their brackets, `CS_BEGIN` and `CS_END` move the depth
and `gie` together (`spec/43_critical_section.md` R160, R161). -/
theorem call_guardBalanced {c : MainCall} {s t : State} (hs : GuardBalanced s) (hb : s.boot = .running)
    (h : exec c.instr s = .next t) : GuardBalanced t := by
  cases c with
  | kpRead =>
    obtain ⟨-, rfl⟩ := kpRead_next h
    exact hs.of_guardKept hb (kpRead_guardKept s)
  | kpFront =>
    obtain ⟨-, rfl⟩ := kpFront_next h
    exact hs.of_guardKept hb (frontBody_guardKept s).afterBracket
  | kpFinal =>
    obtain ⟨-, rfl⟩ := kpFinal_next h
    exact hs.of_guardKept hb (finalBody_guardKept s).afterBracket
  | kpClear =>
    obtain ⟨-, rfl⟩ := kpClear_next h
    exact hs.of_guardKept hb (GuardKept.refl s).afterBracket
  | csBegin =>
    obtain ⟨hroom, rfl⟩ := csBegin_next h
    obtain ⟨-, hisr, -, -⟩ := hs
    exact ⟨hroom, hisr, fun hne => absurd hb hne, by simp⟩
  | csEnd =>
    obtain ⟨hmax, hisr, -, hiff⟩ := hs
    rcases csEnd_next h with ⟨-, rfl⟩ | ⟨hdepth, rfl⟩
    · exact ⟨Nat.zero_le _, hisr, fun _ => rfl, by simp [hb]⟩
    · refine ⟨(Nat.sub_le ..).trans hmax, hisr, fun hne => absurd hb hne, hiff.trans ?_⟩
      exact and_congr_right fun _ => by dsimp only; omega

/-- Settles O15: interrupts are delivered only after the boot, where every operation closes the brackets it opens
(`GuardKept`) but `CS_BEGIN` and `CS_END` (`call_guardBalanced`); during the boot the depth is 0. -/
theorem stepKeepsTheGuardBalanced : Obligations.StepKeepsTheGuardBalanced := by
  intro s t hs h
  cases step_next h with
  | slave i n u hd _ _ hdec he ht =>
    subst ht
    obtain ⟨hdepth, hboot, -, hgie⟩ := slave_guardKept (decode_slv hdec).2 he
    exact hs.of_kept (hs.running_of_canDeliver hd) hdepth hboot rfl hgie
  | tick n u hd _ he ht =>
    subst ht
    obtain ⟨hdepth, hboot, -, hgie⟩ := tick_guardKept he
    exact hs.of_kept (hs.running_of_canDeliver hd) hdepth hboot rfl hgie
  | kpInit ts _ hb ht =>
    subst ht
    exact hs.of_boot (by rw [hb]; nofun) rfl rfl (.inl ⟨nofun, rfl⟩)
  | boot ts b _ hb _ ht =>
    rcases ht with ⟨hne, -, rfl⟩ | rfl
    · exact hs.of_boot hb rfl rfl (.inl ⟨hne, rfl⟩)
    · exact hs.of_boot hb rfl rfl (.inr ⟨rfl, rfl⟩)
  | poll ts _ hb _ he =>
    rw [mlPoll_next he]
    exact hs.of_guardKept hb ⟨rfl, rfl, rfl, .inr rfl⟩
  | handler ts f rest _ hb _ he =>
    have hkept := handler_guardKept he
    exact hs.of_guardKept hb hkept
  | latch ts k rest _ hb _ ht =>
    subst ht
    exact hs.of_guardKept hb ⟨rfl, rfl, rfl, .inr rfl⟩
  | push ts n rest _ hb _ he =>
    have hkept := pushSlot_guardKept he
    exact hs.of_guardKept hb hkept
  | lcdCall ts c rest _ hb _ ht =>
    subst ht
    exact hs.of_guardKept hb (.refl s)
  | call ts c _ hb _ he => exact call_guardBalanced (s := { s with turns := ts }) hs hb he
  | restart ts _ _ he => cases he; exact guardBalanced_initial s.params
  | arrival _ ht _ _ => rw [ht]; exact hs

end Sys2Proof.Machine

/-! # Reset (`spec/10_state.md` R33, `spec/70_reset_and_hazards.md` R211) -/

namespace Sys2Proof.Machine

/-- Of the opaque parameters of a build the constraints of `spec/00_scope.md` R7 are known. -/
theorem config_params_wf : Config.params.wf := by
  have hsent : Config.params.cgramSentMark ≠ 0#8 ∧ Config.params.cgramSentMark &&& 0x1F#8 = 0#8 := by
    simp only [Config.params, Config.cgramSentMark]
    have hmod : Config.cgramSentMarkHigh % 7 < 7 := Nat.mod_lt _ (by decide)
    interval_cases Config.cgramSentMarkHigh % 7 <;> decide
  refine ⟨?_, ?_, ?_, ?_, ?_, hsent⟩ <;> simp only [Config.params] <;> omega

/-- Settles O17: the lemmas about `State.initial`, with the constraints on the parameters (`config_params_wf`). -/
theorem resetMeetsEveryInvariant : Obligations.ResetMeetsEveryInvariant := by
  have hwf := config_params_wf
  have ⟨hcap, _, _, _, hdiv, _⟩ := hwf
  exact ⟨reset_mem_wf, fieldsInRange_initial _, Nat.zero_le _, fun hne => absurd rfl hne, ringSound_initial hcap,
    ⟨hwf, .inr rfl, Nat.zero_le _⟩, hdiv, guardBalanced_initial _⟩

/-- From the cursor's type on, every byte of the register map is 0 at reset (`spec/10_state.md` R33; D13, D14). -/
theorem unlisted_eq_zero {a : Nat} (ha : 0x04 ≤ a) : Memory.unlisted a = 0x00#8 := by
  rw [Memory.unlisted, if_neg (by omega), if_neg (by omega)]
  split <;> rfl

/-- Settles O60: the fields are those of `State.initial`, an empty memory reads as the reset contents, and a
restart of the reset state builds it again. -/
theorem resetGivesTheResetState : Obligations.ResetGivesTheResetState := by
  refine ⟨fun s => ⟨_, rfl, rfl, rfl, rfl, rfl, fun a hlo hhi => ?_, rfl, rfl, rfl, rfl, rfl, rfl, rfl, rfl, rfl, rfl,
    rfl, rfl, rfl, rfl, rfl, rfl, rfl, rfl, rfl, rfl, rfl⟩, rfl⟩
  rw [memRead_of_pos (by omega) (by omega)]
  exact congrArg some (unlisted_eq_zero hlo)

end Sys2Proof.Machine

/-! # The register map over the bus (`spec/20_memory.md` R43, R45, R52, R53)

A master's transaction as the events it causes: the address phase, the data bytes, a read. Both statements of this part
are sequences of these, so each is run once, for every field of the register map. -/

namespace Sys2Proof.Machine

/-! ## The operations on a field -/

/-- A data write to a field (`spec/30_encoding.md` R65). -/
def Field.writeOp : Field → Byte → Instr
  | .keyValue => .wrKey
  | .power => .wrPower
  | .contrast => .wrContrast
  | .cursorType => .wrCursortype
  | .cursorRow => .wrCursorrow
  | .cursorCol => .wrCursorcol
  | .display i => .wrDisplay i
  | .cgram i => .wrCgram i
  | .icon i => .wrIcon i

/-- A read of a field (R65). -/
def Field.readOp (k : ReadEvent) : Field → Instr
  | .keyValue => .rdKey k
  | .power => .rdPower k
  | .contrast => .rdContrast k
  | .cursorType => .rdCursortype k
  | .cursorRow => .rdCursorrow k
  | .cursorCol => .rdCursorcol k
  | .display i => .rdDisplay k i
  | .cgram i => .rdCgram k i
  | .icon i => .rdIcon k i

/-- With the cursor at a field's address, the decoder takes a data write for that field. -/
theorem decodeWrite_addr (f : Field) (b : Byte) : decodeWrite f.addr b = f.writeOp b := by
  have hfield : ∀ g : Field, f.addr = g.addr → g.writeOp b = f.writeOp b := fun g h => by rw [(f.addr_inj g).1 h]
  exact decodeWrite_cases (P := (· = f.writeOp b)) f.addr b (fun h => absurd h f.addr_pos.ne') (hfield .keyValue)
    (hfield .power) (hfield .contrast) (hfield .cursorType) (hfield .cursorRow) (hfield .cursorCol)
    (fun i => hfield (.display i)) (fun i => hfield (.cgram i)) (fun i => hfield (.icon i))
    (fun h => absurd h (Nat.not_le.2 f.addr_lt))

/-- With the cursor at a field's address, the decoder takes a read for that field. -/
theorem decodeRead_addr (k : ReadEvent) (f : Field) : decodeRead k f.addr = f.readOp k := by
  have hfield : ∀ g : Field, f.addr = g.addr → g.readOp k = f.readOp k := fun g h => by rw [(f.addr_inj g).1 h]
  exact decodeRead_cases (P := (· = f.readOp k)) k f.addr (fun h => absurd h f.addr_pos.ne') (hfield .keyValue)
    (hfield .power) (hfield .contrast) (hfield .cursorType) (hfield .cursorRow) (hfield .cursorCol)
    (fun i => hfield (.display i)) (fun i => hfield (.cgram i)) (fun i => hfield (.icon i))
    (fun h => absurd h (Nat.not_le.2 f.addr_lt))

/-- Every address past `status` is a field's (`spec/20_memory.md` R41). -/
theorem Field.exists_addr_eq {a : Nat} (hlo : 1 ≤ a) (hhi : a ≤ 0xA6) : ∃ f : Field, f.addr = a := by
  rcases Nat.lt_or_ge a 0x07 with hscalar | hscalar
  · interval_cases a
    exacts [⟨.keyValue, rfl⟩, ⟨.power, rfl⟩, ⟨.contrast, rfl⟩, ⟨.cursorType, rfl⟩, ⟨.cursorRow, rfl⟩, ⟨.cursorCol, rfl⟩]
  rcases Nat.lt_or_ge a 0x57 with hdisplay | hdisplay
  · exact ⟨.display ⟨a - 0x07, by omega⟩, Nat.add_sub_cancel' hscalar⟩
  rcases Nat.lt_or_ge a 0x97 with hcgram | hcgram
  · exact ⟨.cgram ⟨a - 0x57, by omega⟩, Nat.add_sub_cancel' hdisplay⟩
  · exact ⟨.icon ⟨a - 0x97, by omega⟩, Nat.add_sub_cancel' hcgram⟩

theorem Field.toNat_ofNat_addr (f : Field) : (BitVec.ofNat 8 f.addr).toNat = f.addr :=
  Nat.mod_eq_of_lt (f.addr_lt.trans (by decide))

/-- From the glyphs on, five bits are legal (`spec/30_encoding.md` R67). -/
theorem legalAt_of_le {a : Nat} (ha : 0x57 ≤ a) (v : Byte) : legalAt a v ↔ v.toNat ≤ 0x1F := by
  unfold legalAt
  rw [if_neg (by omega), if_neg (by omega), if_neg (by omega), if_neg (by omega), if_neg (by omega), if_neg (by omega)]

/-- The legal bytes of an address are those of its field (R67). -/
theorem Field.legal_of_legalAt {f : Field} {v : Byte} (h : legalAt f.addr v) : f.legal v = true := by
  cases f with
  | keyValue | display i => rfl
  | power => exact (legal_power v).2 h
  | contrast => exact (legal_contrast v).2 h
  | cursorType => exact (legal_cursorType v).2 h
  | cursorRow => exact (legal_cursorRow v).2 h
  | cursorCol => exact (legal_cursorCol v).2 h
  | cgram i => exact (legal_cgram i v).2 ((legalAt_of_le (Nat.le_add_right ..) v).1 h)
  | icon i => exact (legal_icon i v).2 ((legalAt_of_le (by simp only [Field.addr]; omega) v).1 h)

/-! ## An accepted data write -/

/-- What an accepted data write of `b` to the field `f` leaves, whether or not it changed the byte
(`spec/40_slave_engine.md` R84, R86); only a write of `power` may store at other addresses too (R87, R88). -/
structure Stored (f : Field) (b : Byte) (s t : State) : Prop where
  field : t.field f = b
  others : f ≠ .power → ∀ a, a ≠ f.addr → t.mem.read a = s.mem.read a
  cursor : t.mapAddr = s.mapAddr + 1#8
  writeStart : t.writeStart = s.writeStart
  nack : t.nack = false
  depth : t.csDepth = s.csDepth

/-- The side effect of a write of `power` leaves `power` as the write stored it (R88). -/
theorem powerSideEffect_power (b : Byte) (s : State) : (powerSideEffect b s).field .power = s.field .power := by
  rcases powerSideEffect_cases b s with h | h <;> rw [h]
  exact powerOffReset_read s 0x02

/-- A data write to any field but `keyValue` has the common form (R84), with a side effect for `power` alone. -/
theorem exec_writeOp {f : Field} (hf : f ≠ .keyValue) (b : Byte) (s : State) :
    ∃ side e, (∀ u, side u = u ∨ side u = powerOffReset u) ∧ (∀ u, (side u).field f = u.field f) ∧
      (f ≠ .power → side = id) ∧ exec (f.writeOp b) s = toOutcome (writeField f side e b s.beginEvent) := by
  cases f with
  | keyValue => exact absurd rfl hf
  | power => exact ⟨_, _, powerSideEffect_cases b, powerSideEffect_power b, fun h => absurd rfl h, rfl⟩
  | contrast | cursorType | cursorRow | cursorCol | display i | cgram i | icon i =>
    exact ⟨id, _, fun _ => .inl rfl, fun _ => rfl, fun _ => rfl, rfl⟩

/-- A data write of a legal byte is accepted. -/
theorem exec_writeOp_stores {f : Field} {b : Byte} {s : State} (hr : RoomInGuard s) (hl : f.legal b = true) :
    ∃ t, exec (f.writeOp b) s = .next t ∧ Stored f b s t := by
  by_cases hkey : f = .keyValue
  · subst hkey
    refine ⟨_, rfl, ?_, fun _ a ha => ?_, rfl, rfl, rfl, rfl⟩
    · exact (field_setField ..).trans (if_pos rfl)
    · exact (Memory.read_write ..).trans (if_neg ha)
  · obtain ⟨side, e, hside, hkeep, hid, he⟩ := exec_writeOp hkey b s
    rcases writeField_cases f side e b s.beginEvent hside hr with ⟨hill, -⟩ | ⟨-, hb, hw⟩ | ⟨-, -, hw⟩
    · rw [hl] at hill; cases hill
    · exact ⟨_, he.trans (congrArg toOutcome hw), hb.symm, fun _ _ _ => rfl, rfl, rfl, rfl, rfl⟩
    · have hmem : side (s.beginEvent.setField f b) =
          { s.beginEvent with mem := (side (s.beginEvent.setField f b)).mem } := by
        rcases hside (s.beginEvent.setField f b) with h | h <;> rw [h] <;> rfl
      refine ⟨_, he.trans (congrArg toOutcome hw), ?_, fun hpower a ha => ?_, ?_, ?_, ?_, ?_⟩
      · exact (hkeep _).trans ((field_setField ..).trans (if_pos rfl))
      · rw [hid hpower]
        exact (Memory.read_write ..).trans (if_neg ha)
      all_goals rw [hmem]; rfl

/-! ## A read -/

/-- A read answers the field's byte; the read of `keyValue` clears it (`spec/40_slave_engine.md` R97, R99). -/
theorem exec_readOp (k : ReadEvent) (f : Field) (s : State) :
    ∃ t, exec (f.readOp k) s = .next t ∧ t.tx = some (s.field f) ∧ t.nack = false ∧
      (f = .keyValue → t.field .keyValue = keyNone) := by
  cases f with
  | keyValue =>
    have hcleared : (s.beginEvent.setField .keyValue keyNone).field .keyValue = keyNone := by simp
    exact ⟨_, rfl, rfl, rfl, fun _ => hcleared⟩
  | power | contrast | cursorType | cursorRow | cursorCol | display i | cgram i | icon i =>
    exact ⟨_, rfl, rfl, rfl, nofun⟩

/-! ## The events of a transaction -/

/-- The state with a slave event of this kind and data byte at the engine's callback. -/
def State.present (s : State) (k : BitVec 3) (b : Byte) : State := { s with i2cEvent := ⟨.slave, k, b⟩ }

/-- The first event runs the operation it decodes to (`spec/40_slave_engine.md` R80). -/
theorem handleEvents_cons {k : BitVec 3} {b : Byte} {es : List (BitVec 3 × Byte)} {s t : State} {i : Instr}
    (hdec : decodeEvent k.toNat s.writeStart s.mapAddr.toNat (if k.toNat = 1 then some b else none) = .ok i)
    (he : exec i (s.present k b) = .next t) : handleEvents ((k, b) :: es) s = handleEvents es t := by
  have hfetch : decode (fetchBytes (s.present k b)) = .ok i := (decode_fetch _).trans hdec
  have hcall : slaveCallback (s.present k b) = .next t := by
    rw [← he]
    simp only [slaveCallback, hfetch]
    rfl
  rw [State.present] at hcall
  simp only [handleEvents, hcall]

/-- After the address phase: the cursor set, the next byte data. -/
def State.addressed (s : State) (b : Byte) : State :=
  { s.present 1#3 b with nack := false, tx := none, mapAddr := b, writeStart := false }

/-- `WRITE_ADDR` and an accepted address byte (R81, R82). -/
theorem handleEvents_address {b : Byte} (hb : b.toNat < 0xA7) (es : List (BitVec 3 × Byte)) (s : State) :
    handleEvents ((0#3, 0#8) :: (1#3, b) :: es) s = handleEvents es (s.addressed b) := by
  have hdec : decodeAddress b = .sSetaddr b := if_pos hb
  calc handleEvents ((0#3, 0#8) :: (1#3, b) :: es) s
      = handleEvents ((1#3, b) :: es) { (s.present 0#3 0#8).beginEvent with writeStart := true } :=
        handleEvents_cons (i := .sWaddr) rfl rfl
    _ = handleEvents es (s.addressed b) := handleEvents_cons (congrArg Except.ok hdec) rfl

/-- A data byte with the cursor at a field that may hold it (R84). -/
theorem handleEvents_write {f : Field} {b : Byte} {s : State} (hr : RoomInGuard s) (hw : s.writeStart = false)
    (hc : s.mapAddr.toNat = f.addr) (hl : f.legal b = true) (es : List (BitVec 3 × Byte)) :
    ∃ t, handleEvents ((1#3, b) :: es) s = handleEvents es t ∧ Stored f b s t := by
  obtain ⟨t, he, hs⟩ := exec_writeOp_stores (s := s.present 1#3 b) hr hl
  refine ⟨t, handleEvents_cons ?_ he, { hs with }⟩
  rw [hw, hc, ← decodeWrite_addr]
  rfl

/-- A read transaction: the address phase and a `READ_ADDR` (R97, R99). -/
theorem handleEvents_read (f : Field) (s : State) :
    ∃ t, handleEvents [(0#3, 0#8), (1#3, BitVec.ofNat 8 f.addr), (2#3, 0#8)] s = .next t ∧
      t.tx = some (s.field f) ∧ t.nack = false ∧ (f = .keyValue → t.field .keyValue = keyNone) := by
  have haddr := f.toNat_ofNat_addr
  obtain ⟨t, he, hanswer⟩ := exec_readOp .addr f ((s.addressed (BitVec.ofNat 8 f.addr)).present 2#3 0#8)
  refine ⟨t, ?_, hanswer⟩
  rw [handleEvents_address (haddr.trans_lt f.addr_lt)]
  refine handleEvents_cons ?_ he
  rw [← decodeRead_addr]
  exact congrArg (fun a => Except.ok (decodeRead .addr a)) haddr

/-- A write of a legal byte to a field and the read of that field, its address sent again. -/
theorem handleEvents_write_read {f : Field} {v : Byte} {s : State} (hr : RoomInGuard s) (hl : f.legal v = true) :
    ∃ t, handleEvents [(0#3, 0#8), (1#3, BitVec.ofNat 8 f.addr), (1#3, v),
        (0#3, 0#8), (1#3, BitVec.ofNat 8 f.addr), (2#3, 0#8)] s = .next t ∧
      t.tx = some v ∧ t.nack = false ∧ (f = .keyValue → t.field .keyValue = keyNone) := by
  have haddr := f.toNat_ofNat_addr
  rw [handleEvents_address (haddr.trans_lt f.addr_lt)]
  obtain ⟨u, hu, hstored⟩ := handleEvents_write (s := s.addressed (BitVec.ofNat 8 f.addr)) hr rfl haddr hl
    [(0#3, 0#8), (1#3, BitVec.ofNat 8 f.addr), (2#3, 0#8)]
  rw [hu, ← hstored.field]
  exact handleEvents_read f u

/-- Settles O24: every address from 0x01 on is a field's (`Field.exists_addr_eq`), and a field written is read back
(`handleEvents_write_read`); the read of `keyValue` clears it, so the next one answers 0xFF. -/
theorem writeThenReadBack : Obligations.WriteThenReadBack := by
  refine fun s v hr => ⟨fun a hlo hhi hlegal => ?legal, ?key⟩
  case legal =>
    obtain ⟨f, rfl⟩ := Field.exists_addr_eq (by omega : 1 ≤ a) hhi
    obtain ⟨t, ht, htx, hnack, -⟩ := handleEvents_write_read hr (Field.legal_of_legalAt hlegal)
    exact ⟨t, ht, htx, hnack⟩
  case key =>
    obtain ⟨t, ht, htx, -, hclear⟩ := handleEvents_write_read (f := .keyValue) (v := v) hr rfl
    obtain ⟨u, hu, hutx, -⟩ := handleEvents_read .keyValue t
    rw [hclear rfl] at hutx
    exact ⟨t, u, ht, htx, hu, hutx⟩

/-! ## A burst of data bytes -/

/-- The bytes `bs` as `WRITE_DATA` events. -/
def dataEvents (bs : List Byte) : List (BitVec 3 × Byte) := bs.map fun b => (1#3, b)

/-- From `s` to `t` the bytes `bs` were stored from address `a` on, and the transaction is ready for the next. -/
structure StoredFrom (a : Nat) (bs : List Byte) (s t : State) : Prop where
  cursor : t.mapAddr = BitVec.ofNat 8 (a + bs.length)
  writeStart : t.writeStart = false
  nack : t.nack = false
  bytes : ∀ j, j < bs.length → memRead t (a + j) = bs[j]?
  others : ∀ x, 0 < x → (x < a ∨ a + bs.length ≤ x) → memRead t x = memRead s x

/-- A byte stored at a field in front of a burst that begins at the next address. -/
theorem Stored.storedFrom_cons {f : Field} {b : Byte} {bs : List Byte} {s t u : State} (hf : f ≠ .power)
    (hfirst : Stored f b s t) (hrest : StoredFrom (f.addr + 1) bs t u) : StoredFrom f.addr (b :: bs) s u := by
  have hpos := f.addr_pos
  have hshift : ∀ n, f.addr + (n + 1) = f.addr + 1 + n := fun n => by omega
  refine ⟨?_, hrest.writeStart, hrest.nack, fun j hj => ?_, fun x hx hout => ?_⟩
  · rw [List.length_cons, hshift]; exact hrest.cursor
  · cases j with
    | zero =>
      calc memRead u f.addr = memRead t f.addr := hrest.others _ hpos (.inl (Nat.lt_succ_self _))
        _ = some b := (memRead_field t f).trans (congrArg some hfirst.field)
    | succ j => rw [hshift]; exact hrest.bytes j (Nat.lt_of_succ_lt_succ hj)
  · rw [List.length_cons] at hout
    calc memRead u x = memRead t x := hrest.others x hx (by omega)
      _ = memRead s x := memRead_congr_pos hx.ne' (hfirst.others hf x (by omega))

/-- A burst inside `displayRam`, every byte of which is legal there (`spec/40_slave_engine.md` R93). -/
theorem handleEvents_burst {bs : List Byte} {i : Nat} {s : State} (hr : RoomInGuard s) (hi : i + bs.length ≤ 80)
    (hc : s.mapAddr = BitVec.ofNat 8 (0x07 + i)) (hw : s.writeStart = false) (hn : s.nack = false) :
    ∃ t, handleEvents (dataEvents bs) s = .next t ∧ StoredFrom (0x07 + i) bs s t := by
  induction bs generalizing i s with
  | nil => exact ⟨s, rfl, hc, hw, hn, nofun, fun _ _ _ => rfl⟩
  | cons b bs ih =>
    rw [List.length_cons] at hi
    have hlt : i < 80 := by omega
    have hcursor : s.mapAddr.toNat = (Field.display ⟨i, hlt⟩).addr :=
      (congrArg BitVec.toNat hc).trans (Field.display ⟨i, hlt⟩).toNat_ofNat_addr
    obtain ⟨t, ht, hfirst⟩ := handleEvents_write (b := b) hr hw hcursor rfl (dataEvents bs)
    have hnext : t.mapAddr = BitVec.ofNat 8 (0x07 + (i + 1)) := by
      rw [hfirst.cursor, hc, ← BitVec.ofNat_add, Nat.add_assoc]
    obtain ⟨u, hu, hrest⟩ := ih (hfirst.depth.trans_lt hr) (by omega) hnext (hfirst.writeStart.trans hw) hfirst.nack
    exact ⟨u, ht.trans hu, hfirst.storedFrom_cons (by nofun) hrest⟩

/-- Settles O25: the address phase, and then the burst by induction on its bytes (`handleEvents_burst`). -/
theorem burstWriteFillsTheDisplay : Obligations.BurstWriteFillsTheDisplay := by
  intro bs i s hr hi
  have hin : (BitVec.ofNat 8 (0x07 + i)).toNat < 0xA7 := by rw [BitVec.toNat_ofNat]; omega
  obtain ⟨t, ht, hburst⟩ := handleEvents_burst (s := s.addressed (BitVec.ofNat 8 (0x07 + i))) hr hi rfl rfl rfl
  exact ⟨t, (handleEvents_address hin _ s).trans ht, hburst.cursor, hburst.writeStart, hburst.nack, hburst.bytes,
    hburst.others⟩

end Sys2Proof.Machine

/-! # The decoder against the encoder and the opcode table (`spec/30_encoding.md` R63 to R66, R75)

A selector is taken apart once into its kind, `writeStart` and cursor. The encoder, the decoder and the table's rows are
then compared part by part, for the slave events grouped by what they do: the address phase, a write or a read at
`status`, at a field, or past the map, and the two events that move no byte. -/

namespace Sys2Proof.Machine

/-! ## The slave events -/

/-- The slave events, the data writes and the reads by the region they access (`spec/30_encoding.md` R65). -/
theorem slv_cases {P : Instr → Prop} {i : Instr} (hf : i.format = .slv) (waddr : P .sWaddr)
    (setaddr : ∀ b, P (.sSetaddr b)) (setaddrOor : ∀ b, P (.sSetaddrOor b)) (wrStatus : ∀ b, P (.wrStatus b))
    (write : ∀ (f : Field) b, P (f.writeOp b)) (wrOor : ∀ b, P (.wrOor b)) (rdStatus : ∀ k, P (.rdStatus k))
    (read : ∀ k (f : Field), P (f.readOp k)) (rdOor : ∀ k, P (.rdOor k)) (rnack : P .sRnack) (buserr : P .sBuserr) :
    P i := by
  cases i with
  | sWaddr => exact waddr
  | sSetaddr b => exact setaddr b
  | sSetaddrOor b => exact setaddrOor b
  | wrStatus b => exact wrStatus b
  | wrKey b => exact write .keyValue b
  | wrPower b => exact write .power b
  | wrContrast b => exact write .contrast b
  | wrCursortype b => exact write .cursorType b
  | wrCursorrow b => exact write .cursorRow b
  | wrCursorcol b => exact write .cursorCol b
  | wrDisplay i b => exact write (.display i) b
  | wrCgram i b => exact write (.cgram i) b
  | wrIcon i b => exact write (.icon i) b
  | wrOor b => exact wrOor b
  | rdStatus k => exact rdStatus k
  | rdKey k => exact read k .keyValue
  | rdPower k => exact read k .power
  | rdContrast k => exact read k .contrast
  | rdCursortype k => exact read k .cursorType
  | rdCursorrow k => exact read k .cursorRow
  | rdCursorcol k => exact read k .cursorCol
  | rdDisplay k i => exact read k (.display i)
  | rdCgram k i => exact read k (.cgram i)
  | rdIcon k i => exact read k (.icon i)
  | rdOor k => exact rdOor k
  | sRnack => exact rnack
  | sBuserr => exact buserr
  | _ => cases hf

/-- An operation that is no slave event has neither an encoding nor a row over the selector (R75). -/
theorem no_encoding_of_ne_slv {i : Instr} (hf : i.format ≠ .slv) : encode i = none ∧ i.row = none := by
  cases i with
  | powerOffReset | evRaise | evDrain | mlPoll | dspTimer | dspPowerContrast | dspCursorSet | dspCursorDraw
  | dspDrawLine0 | dspDrawLine1 | dspSetCgram | dspDrawIcon | kpInit | kpScan | kpRead | kpInsert | kpCapture
  | kpFront | kpFinal | kpClear | csBegin | csEnd | tick | reset => exact ⟨rfl, rfl⟩
  | _ => exact absurd rfl hf

/-- The kind code of a read event (R64; D4). -/
def readKind : ReadEvent → Nat
  | .addr => 2
  | .ack => 3

theorem encodeRead_eq (k : ReadEvent) (a : Nat) : encodeRead k a = some (selectorBytes (readKind k) false a) := by
  cases k <;> rfl

theorem decodeEvent_read (k : ReadEvent) (w : Bool) (a : Nat) :
    decodeEvent (readKind k) w a none = .ok (decodeRead k a) := by
  cases k <;> rfl

/-- The kinds 2 and 3 are the two read events' (R64; D4). -/
theorem eq_readKind_iff (k : ReadEvent) (kind : Nat) :
    kind = readKind k ↔ kind / 2 = 1 ∧ (k = .addr ↔ kind = 2) := by
  cases k <;> simp only [readKind, true_iff, reduceCtorEq, false_iff] <;> omega

/-- A data write past the map. -/
theorem decodeWrite_past {a : Nat} (ha : 0xA7 ≤ a) (b : Byte) : decodeWrite a b = .wrOor b := by
  refine decodeWrite_cases (P := (· = .wrOor b)) a b ?_ ?_ ?_ ?_ ?_ ?_ ?_ ?_ ?_ ?_ (fun _ => rfl) <;> intros <;> omega

/-- A read past the map. -/
theorem decodeRead_past {a : Nat} (ha : 0xA7 ≤ a) (k : ReadEvent) : decodeRead k a = .rdOor k := by
  refine decodeRead_cases (P := (· = .rdOor k)) k a ?_ ?_ ?_ ?_ ?_ ?_ ?_ ?_ ?_ ?_ (fun _ => rfl) <;> intros <;> omega

/-- An address is `status`'s, a field's, or past the map (`spec/20_memory.md` R41). -/
theorem address_cases (a : Nat) : a = 0x00 ∨ (∃ f : Field, f.addr = a) ∨ 0xA7 ≤ a := by
  by_cases hlo : a = 0x00
  · exact .inl hlo
  by_cases hhi : 0xA7 ≤ a
  · exact .inr (.inr hhi)
  · exact .inr (.inl (Field.exists_addr_eq (by omega) (by omega)))

/-! ## The selector -/

/-- The selector with these parts (`spec/30_encoding.md` R65): kind in bits 11..9, `writeStart` in bit 8, cursor in bits
7..0. -/
def selectorOf (kind : Nat) (w : Bool) (a : Nat) : Nat := kind * 512 + w.toNat * 256 + a

theorem selectorOf_div_kind {kind a : Nat} (w : Bool) (ha : a < 256) : selectorOf kind w a / 512 = kind := by
  have hw := w.toNat_le
  unfold selectorOf
  omega

/-- Every 12-bit selector has its parts. -/
theorem exists_selectorOf_eq {sel : Nat} (h : sel < 4096) :
    ∃ kind w a, kind < 8 ∧ a < 256 ∧ selectorOf kind w a = sel := by
  refine ⟨sel / 512, sel.testBit 8, sel % 256, by omega, by omega, ?_⟩
  rw [selectorOf, Nat.toNat_testBit]
  omega

/-- The two bytes of a selector are those the encoder writes for its parts. -/
theorem selectorBytes_eq {kind a : Nat} (w : Bool) (ha : a < 256) :
    [BitVec.ofNat 8 (selectorOf kind w a), BitVec.ofNat 8 (selectorOf kind w a / 256)] = selectorBytes kind w a := by
  have hlo : BitVec.ofNat 8 (selectorOf kind w a) = BitVec.ofNat 8 a := by
    apply BitVec.eq_of_toNat_eq
    simp only [selectorOf, BitVec.toNat_ofNat]
    omega
  have hhi : selectorOf kind w a / 256 = kind * 2 + w.toNat := by unfold selectorOf; omega
  rw [hlo, hhi, selectorBytes]

/-- The decoder finds the parts of a selector again. -/
theorem decode_selectorBytes {kind a : Nat} (hk : kind < 8) (w : Bool) (ha : a < 256) (data : Option Byte) :
    decode (selectorBytes kind w a ++ data.toList) = decodeEvent kind w a data := by
  have hw := w.toNat_le
  have hhi : (BitVec.ofNat 8 (kind * 2 + w.toNat)).toNat = kind * 2 + w.toNat := by
    rw [BitVec.toNat_ofNat]; omega
  have hbit : (BitVec.ofNat 8 (kind * 2 + w.toNat)).getLsbD 0 = w := by
    rw [BitVec.getLsbD, hhi, Nat.testBit_zero]
    cases w <;> simp
  have hlo : (BitVec.ofNat 8 a).toNat = a := by rw [BitVec.toNat_ofNat]; omega
  have hsel : decodeSelector (BitVec.ofNat 8 a) (BitVec.ofNat 8 (kind * 2 + w.toNat)) data =
      decodeEvent kind w a data := by
    rw [decodeSelector, hhi, hbit, hlo, if_pos (by omega), show (kind * 2 + w.toNat) / 2 = kind by omega]
  cases data <;> exact hsel

/-! ## Decoding what the encoder wrote -/

/-- An encoding of `i` that the decoder takes for `i` again. -/
def RoundTrips (i : Instr) : Prop := ∃ ws, encode i = some ws ∧ decode ws = .ok i

theorem roundTrips_of {i : Instr} {kind a : Nat} {w : Bool} {data : Option Byte} (hk : kind < 8) (ha : a < 256)
    (henc : encode i = some (selectorBytes kind w a ++ data.toList)) (hdec : decodeEvent kind w a data = .ok i) :
    RoundTrips i :=
  ⟨_, henc, (decode_selectorBytes hk w ha data).trans hdec⟩

theorem encode_writeOp (f : Field) (b : Byte) : encode (f.writeOp b) = encodeWrite f.addr b := by
  cases f <;> rfl

theorem encode_readOp (k : ReadEvent) (f : Field) : encode (f.readOp k) = encodeRead k f.addr := by
  cases f <;> rfl

theorem roundTrips_address {i : Instr} {b : Byte} (henc : encode i = some (selectorBytes 1 true 0 ++ [b]))
    (hdec : decodeAddress b = i) : RoundTrips i :=
  roundTrips_of (data := some b) (by decide) (by decide) henc (congrArg Except.ok hdec)

theorem roundTrips_write {i : Instr} {a : Nat} {b : Byte} (ha : a < 256) (henc : encode i = encodeWrite a b)
    (hdec : decodeWrite a b = i) : RoundTrips i :=
  roundTrips_of (data := some b) (w := false) (by decide : 1 < 8) ha henc (congrArg Except.ok hdec)

theorem roundTrips_read {i : Instr} {k : ReadEvent} {a : Nat} (ha : a < 256) (henc : encode i = encodeRead k a)
    (hdec : decodeRead k a = i) : RoundTrips i := by
  have hk : readKind k < 8 := by cases k <;> decide
  refine roundTrips_of (data := none) (w := false) hk ha ?_ ?_
  · rw [henc, encodeRead_eq, Option.toList_none, List.append_nil]
  · rw [decodeEvent_read, hdec]

/-- Settles O1: each group of slave events has its own round trip, and what is no slave event has no encoding. -/
theorem decodeInvertsEncode : Obligations.DecodeInvertsEncode := by
  intro i hwf
  refine ⟨fun hf => ?slv, fun hf => (no_encoding_of_ne_slv hf).1⟩
  revert hwf
  refine slv_cases (P := fun i => i.wf = true → RoundTrips i) hf ?waddr ?setaddr ?setaddrOor ?wrStatus ?write ?wrOor
    ?rdStatus ?read ?rdOor ?rnack ?buserr
  case waddr => exact fun _ => ⟨_, rfl, rfl⟩
  case setaddr => exact fun b hwf => roundTrips_address rfl (if_pos (of_decide_eq_true hwf))
  case setaddrOor => exact fun b hwf => roundTrips_address rfl (if_neg (Nat.not_lt.2 (of_decide_eq_true hwf)))
  case wrStatus => exact fun _ _ => roundTrips_write (by decide : 0x00 < 256) rfl rfl
  case write =>
    exact fun f b _ => roundTrips_write (f.addr_lt.trans (by decide)) (encode_writeOp f b) (decodeWrite_addr f b)
  case wrOor => exact fun b _ => roundTrips_write (by decide : 0xA7 < 256) rfl (decodeWrite_past le_rfl b)
  case rdStatus => exact fun _ _ => roundTrips_read (by decide : 0x00 < 256) rfl rfl
  case read =>
    exact fun k f _ => roundTrips_read (f.addr_lt.trans (by decide)) (encode_readOp k f) (decodeRead_addr k f)
  case rdOor => exact fun k _ => roundTrips_read (by decide : 0xA7 < 256) rfl (decodeRead_past le_rfl k)
  case rnack => exact fun _ => ⟨_, rfl, rfl⟩
  case buserr => exact fun _ => ⟨_, rfl, rfl⟩

/-- Settles O3: the twelve words are evaluated. -/
theorem sampleWordsDecode : Obligations.SampleWordsDecode :=
  ⟨rfl, rfl, rfl, rfl, rfl, rfl, rfl, rfl, rfl, rfl, rfl, rfl⟩

/-! ## The rows of the opcode table -/

/-- A mask of `n` bits from bit `k` on and `j` bits from bit 0 on keeps these two fields of a word. -/
theorem and_mask_eq (x n : Nat) {j k : Nat} (hjk : j ≤ k) :
    x &&& ((2 ^ n - 1) * 2 ^ k + (2 ^ j - 1)) = x / 2 ^ k % 2 ^ n * 2 ^ k + x % 2 ^ j := by
  have hlt : 2 ^ j - 1 < 2 ^ k := (Nat.sub_lt (Nat.two_pow_pos j) one_pos).trans_le (Nat.pow_le_pow_right two_pos hjk)
  have hhigh : (x &&& ((2 ^ n - 1) * 2 ^ k + (2 ^ j - 1))) / 2 ^ k = x / 2 ^ k % 2 ^ n := by
    rw [Nat.and_div_two_pow, Nat.mul_comm, Nat.mul_add_div (Nat.two_pow_pos k), Nat.div_eq_of_lt hlt, Nat.add_zero,
      Nat.and_two_pow_sub_one_eq_mod]
  have hlow : (x &&& ((2 ^ n - 1) * 2 ^ k + (2 ^ j - 1))) % 2 ^ k = x % 2 ^ j := by
    rw [Nat.and_mod_two_pow, Nat.mul_add_mod_self_right, Nat.mod_eq_of_lt hlt, Nat.and_two_pow_sub_one_eq_mod,
      Nat.mod_mod_of_dvd _ (Nat.pow_dvd_pow 2 hjk)]
  rw [← hhigh, ← hlow, Nat.div_add_mod']

section
variable {kind a : Nat} {w : Bool}

/-- A selector stands in a row when the mask keeps of it the row's match, and the cursor is in range. -/
theorem admits_iff (ha : a < 256) {bits mask lo hi : Nat} :
    TableRow.admits ⟨bits, mask, lo, hi⟩ (selectorOf kind w a) = true ↔
      selectorOf kind w a &&& mask = bits ∧ lo ≤ a ∧ a ≤ hi := by
  have hcursor : selectorOf kind w a % 256 = a := by unfold selectorOf; omega
  simp only [TableRow.admits, hcursor, Bool.and_eq_true, beq_iff_eq, decide_eq_true_eq, and_assoc]

/-- A row of one kind, at any address. -/
theorem admits_kind (hk : kind < 8) (ha : a < 256) (c : Nat) :
    TableRow.admits ⟨c * 512, 0xE00, 0x00, 0xFF⟩ (selectorOf kind w a) = true ↔ kind = c := by
  have hw := w.toNat_le
  have hmask : selectorOf kind w a &&& 0xE00 = _ := and_mask_eq _ 3 (Nat.zero_le 9)
  rw [admits_iff ha, hmask, selectorOf]
  omega

/-- The row of the address bytes, at any address. -/
theorem admits_address (hk : kind < 8) (ha : a < 256) :
    TableRow.admits ⟨0x300, 0xF00, 0x00, 0xFF⟩ (selectorOf kind w a) = true ↔ kind = 1 ∧ w = true := by
  have hw := w.toNat_le
  have hmask : selectorOf kind w a &&& 0xF00 = _ := and_mask_eq _ 4 (Nat.zero_le 8)
  rw [admits_iff ha, hmask, selectorOf, ← Bool.toNat_eq_one]
  omega

/-- A row of data writes in a range of addresses. -/
theorem admits_write (hk : kind < 8) (ha : a < 256) (lo hi : Nat) :
    TableRow.admits ⟨0x200, 0xF00, lo, hi⟩ (selectorOf kind w a) = true ↔ kind = 1 ∧ w = false ∧ lo ≤ a ∧ a ≤ hi := by
  have hw := w.toNat_le
  have hmask : selectorOf kind w a &&& 0xF00 = _ := and_mask_eq _ 4 (Nat.zero_le 8)
  rw [admits_iff ha, hmask, selectorOf, ← Bool.toNat_eq_zero]
  omega

/-- The row of a data write at one address. -/
theorem admits_writeAt (hk : kind < 8) (ha : a < 256) {n : Nat} (hn : n < 256) :
    TableRow.admits ⟨0x200 + n, 0xFFF, n, n⟩ (selectorOf kind w a) = true ↔ kind = 1 ∧ w = false ∧ n = a := by
  have hw := w.toNat_le
  have hmask : selectorOf kind w a &&& 0xFFF = _ := and_mask_eq _ 4 (Nat.le_refl 8)
  rw [admits_iff ha, hmask, selectorOf, ← Bool.toNat_eq_zero]
  omega

/-- A row of reads in a range of addresses. -/
theorem admits_read (hk : kind < 8) (ha : a < 256) (lo hi : Nat) :
    TableRow.admits ⟨0x400, 0xC00, lo, hi⟩ (selectorOf kind w a) = true ↔ kind / 2 = 1 ∧ lo ≤ a ∧ a ≤ hi := by
  have hw := w.toNat_le
  have hmask : selectorOf kind w a &&& 0xC00 = _ := and_mask_eq _ 2 (Nat.zero_le 10)
  rw [admits_iff ha, hmask, selectorOf]
  omega

/-- The row of a read at one address. -/
theorem admits_readAt (hk : kind < 8) (ha : a < 256) {n : Nat} (hn : n < 256) :
    TableRow.admits ⟨0x400 + n, 0xCFF, n, n⟩ (selectorOf kind w a) = true ↔ kind / 2 = 1 ∧ n = a := by
  have hw := w.toNat_le
  have hmask : selectorOf kind w a &&& 0xCFF = _ := and_mask_eq _ 2 (by decide : 8 ≤ 10)
  rw [admits_iff ha, hmask, selectorOf]
  omega

end

/-! ## Where an operation stands in the table -/

/-- The operation stands in the table at the selector and the data byte (`spec/30_encoding.md` R65, R66). -/
def StandsAt (i : Instr) (sel : Nat) (data : Option Byte) : Prop :=
  i.wf = true ∧ i.dataByte = data ∧ (∃ r, i.row = some r ∧ r.admits sel = true) ∧
    ∀ k, i.readEvent = some k → (k = .addr ↔ sel / 512 = 2)

theorem StandsAt.slv {i : Instr} {sel : Nat} {data : Option Byte} (h : StandsAt i sel data) : i.format = .slv := by
  obtain ⟨-, -, ⟨r, hrow, -⟩, -⟩ := h
  by_contra hf
  rw [(no_encoding_of_ne_slv hf).2] at hrow
  cases hrow

/-- For an operation that is no read the kind of read event is no condition. -/
theorem standsAt_iff {i : Instr} {r : TableRow} {sel : Nat} {data : Option Byte} {Q : Prop} (hrow : i.row = some r)
    (hread : i.readEvent = none) (hadmits : r.admits sel = true ↔ Q) :
    StandsAt i sel data ↔ i.wf = true ∧ i.dataByte = data ∧ Q := by
  simp [StandsAt, hrow, hread, hadmits]

/-- For a read the row and the read event together fix the kind. -/
theorem standsAt_read_iff {i : Instr} {r : TableRow} {k : ReadEvent} {kind a : Nat} {w : Bool} {data : Option Byte}
    {Q : Prop} (ha : a < 256) (hrow : i.row = some r) (hread : i.readEvent = some k)
    (hadmits : r.admits (selectorOf kind w a) = true ↔ kind / 2 = 1 ∧ Q) :
    StandsAt i (selectorOf kind w a) data ↔ i.wf = true ∧ i.dataByte = data ∧ kind = readKind k ∧ Q := by
  simp only [StandsAt, hrow, hread, hadmits, selectorOf_div_kind w ha, eq_readKind_iff, Option.some.injEq,
    exists_eq_left', forall_eq', and_assoc, and_comm (a := Q)]

section
variable {kind a : Nat} {w : Bool} {data : Option Byte} (hk : kind < 8) (ha : a < 256)
include hk ha

theorem standsAt_sWaddr : StandsAt .sWaddr (selectorOf kind w a) data ↔ none = data ∧ kind = 0 :=
  (standsAt_iff rfl rfl (admits_kind hk ha 0)).trans (and_iff_right rfl)

theorem standsAt_sRnack : StandsAt .sRnack (selectorOf kind w a) data ↔ none = data ∧ kind = 4 :=
  (standsAt_iff rfl rfl (admits_kind hk ha 4)).trans (and_iff_right rfl)

theorem standsAt_sBuserr : StandsAt .sBuserr (selectorOf kind w a) data ↔ none = data ∧ kind = 5 :=
  (standsAt_iff rfl rfl (admits_kind hk ha 5)).trans (and_iff_right rfl)

theorem standsAt_sSetaddr (b : Byte) :
    StandsAt (.sSetaddr b) (selectorOf kind w a) data ↔ b.toNat < 0xA7 ∧ some b = data ∧ kind = 1 ∧ w = true :=
  (standsAt_iff rfl rfl (admits_address hk ha)).trans (and_congr_left' decide_eq_true_iff)

theorem standsAt_sSetaddrOor (b : Byte) :
    StandsAt (.sSetaddrOor b) (selectorOf kind w a) data ↔ 0xA7 ≤ b.toNat ∧ some b = data ∧ kind = 1 ∧ w = true :=
  (standsAt_iff rfl rfl (admits_address hk ha)).trans (and_congr_left' decide_eq_true_iff)

theorem standsAt_wrStatus (b : Byte) : StandsAt (.wrStatus b) (selectorOf kind w a) data ↔
    some b = data ∧ kind = 1 ∧ w = false ∧ 0x00 = a :=
  (standsAt_iff rfl rfl (admits_writeAt hk ha (by decide : 0x00 < 256))).trans (and_iff_right rfl)

theorem standsAt_wrOor (b : Byte) : StandsAt (.wrOor b) (selectorOf kind w a) data ↔
    some b = data ∧ kind = 1 ∧ w = false ∧ 0xA7 ≤ a ∧ a ≤ 0xFF :=
  (standsAt_iff rfl rfl (admits_write hk ha 0xA7 0xFF)).trans (and_iff_right rfl)

/-- A write of a field before the arrays has its own row, a write of an element the region's, narrowed (R66). -/
theorem standsAt_writeOp (f : Field) (b : Byte) : StandsAt (f.writeOp b) (selectorOf kind w a) data ↔
    some b = data ∧ kind = 1 ∧ w = false ∧ f.addr = a := by
  have hat : f.addr < 256 := f.addr_lt.trans (by decide)
  have helement := (admits_write (w := w) hk ha f.addr f.addr).trans
    (and_congr_right' (and_congr_right' le_antisymm_iff.symm))
  cases f with
  | keyValue | power | contrast | cursorType | cursorRow | cursorCol =>
    exact (standsAt_iff rfl rfl (admits_writeAt hk ha hat)).trans (and_iff_right rfl)
  | display i | cgram i | icon i => exact (standsAt_iff rfl rfl helement).trans (and_iff_right rfl)

theorem standsAt_rdStatus (k : ReadEvent) : StandsAt (.rdStatus k) (selectorOf kind w a) data ↔
    none = data ∧ kind = readKind k ∧ 0x00 = a :=
  (standsAt_read_iff ha rfl rfl (admits_readAt hk ha (by decide : 0x00 < 256))).trans (and_iff_right rfl)

theorem standsAt_rdOor (k : ReadEvent) : StandsAt (.rdOor k) (selectorOf kind w a) data ↔
    none = data ∧ kind = readKind k ∧ 0xA7 ≤ a ∧ a ≤ 0xFF :=
  (standsAt_read_iff ha rfl rfl (admits_read hk ha 0xA7 0xFF)).trans (and_iff_right rfl)

/-- The same for the reads (R66). -/
theorem standsAt_readOp (k : ReadEvent) (f : Field) : StandsAt (f.readOp k) (selectorOf kind w a) data ↔
    none = data ∧ kind = readKind k ∧ f.addr = a := by
  have hat : f.addr < 256 := f.addr_lt.trans (by decide)
  have helement := (admits_read (w := w) hk ha f.addr f.addr).trans (and_congr_right' le_antisymm_iff.symm)
  cases f with
  | keyValue | power | contrast | cursorType | cursorRow | cursorCol =>
    exact (standsAt_read_iff ha rfl rfl (admits_readAt hk ha hat)).trans (and_iff_right rfl)
  | display i | cgram i | icon i => exact (standsAt_read_iff ha rfl rfl helement).trans (and_iff_right rfl)

end

/-! ## The decoder against the table -/

/-- A data write is decoded to an operation that stands at its selector. -/
theorem standsAt_decodeWrite {a : Nat} (ha : a < 256) (b : Byte) :
    StandsAt (decodeWrite a b) (selectorOf 1 false a) (some b) := by
  have hkind : 1 < 8 := by decide
  rcases address_cases a with rfl | ⟨f, rfl⟩ | hpast
  · exact (standsAt_wrStatus hkind ha b).2 ⟨rfl, rfl, rfl, rfl⟩
  · rw [decodeWrite_addr]
    exact (standsAt_writeOp hkind ha f b).2 ⟨rfl, rfl, rfl, rfl⟩
  · rw [decodeWrite_past hpast]
    exact (standsAt_wrOor hkind ha b).2 ⟨rfl, rfl, rfl, hpast, Nat.le_of_lt_succ ha⟩

/-- A read is decoded to an operation that stands at its selector. -/
theorem standsAt_decodeRead {a : Nat} (ha : a < 256) (w : Bool) (k : ReadEvent) :
    StandsAt (decodeRead k a) (selectorOf (readKind k) w a) none := by
  have hkind : readKind k < 8 := by cases k <;> decide
  rcases address_cases a with rfl | ⟨f, rfl⟩ | hpast
  · exact (standsAt_rdStatus hkind ha k).2 ⟨rfl, rfl, rfl⟩
  · rw [decodeRead_addr]
    exact (standsAt_readOp hkind ha k f).2 ⟨rfl, rfl, rfl⟩
  · rw [decodeRead_past hpast]
    exact (standsAt_rdOor hkind ha k).2 ⟨rfl, rfl, hpast, Nat.le_of_lt_succ ha⟩

/-- What the decoder answers stands in the table. -/
theorem standsAt_of_decodeEvent {kind a : Nat} {w : Bool} {data : Option Byte} {i : Instr} (hk : kind < 8)
    (ha : a < 256) (h : decodeEvent kind w a data = .ok i) : StandsAt i (selectorOf kind w a) data := by
  refine decodeEvent_cases (P := fun i => StandsAt i (selectorOf kind w a) data) h ?waddr ?address ?write ?readAddr
    ?readAck ?rnack ?buserr
  case waddr => rintro rfl rfl; exact (standsAt_sWaddr hk ha).2 ⟨rfl, rfl⟩
  case address =>
    rintro b rfl rfl rfl
    exact decodeAddress_cases (P := fun i => StandsAt i _ _) b
      (fun hb => (standsAt_sSetaddr hk ha b).2 ⟨hb, rfl, rfl, rfl⟩)
      fun hb => (standsAt_sSetaddrOor hk ha b).2 ⟨hb, rfl, rfl, rfl⟩
  case write => rintro b rfl rfl rfl; exact standsAt_decodeWrite ha b
  case readAddr => rintro rfl rfl; exact standsAt_decodeRead ha w .addr
  case readAck => rintro rfl rfl; exact standsAt_decodeRead ha w .ack
  case rnack => rintro rfl rfl; exact (standsAt_sRnack hk ha).2 ⟨rfl, rfl⟩
  case buserr => rintro rfl rfl; exact (standsAt_sBuserr hk ha).2 ⟨rfl, rfl⟩

/-- What stands in the table is the decoder's answer. -/
theorem decodeEvent_of_standsAt {kind a : Nat} {w : Bool} {data : Option Byte} {i : Instr} (hk : kind < 8)
    (ha : a < 256) (h : StandsAt i (selectorOf kind w a) data) : decodeEvent kind w a data = .ok i := by
  have hf := h.slv
  revert h
  refine slv_cases (P := fun i => StandsAt i (selectorOf kind w a) data → decodeEvent kind w a data = .ok i) hf
    ?waddr ?setaddr ?setaddrOor ?wrStatus ?write ?wrOor ?rdStatus ?read ?rdOor ?rnack ?buserr
  case waddr => intro h; obtain ⟨rfl, rfl⟩ := (standsAt_sWaddr hk ha).1 h; rfl
  case setaddr =>
    intro b h
    obtain ⟨hb, rfl, rfl, rfl⟩ := (standsAt_sSetaddr hk ha b).1 h
    exact congrArg Except.ok (if_pos hb)
  case setaddrOor =>
    intro b h
    obtain ⟨hb, rfl, rfl, rfl⟩ := (standsAt_sSetaddrOor hk ha b).1 h
    exact congrArg Except.ok (if_neg (Nat.not_lt.2 hb))
  case wrStatus => intro b h; obtain ⟨rfl, rfl, rfl, rfl⟩ := (standsAt_wrStatus hk ha b).1 h; rfl
  case write =>
    intro f b h
    obtain ⟨rfl, rfl, rfl, rfl⟩ := (standsAt_writeOp hk ha f b).1 h
    exact congrArg Except.ok (decodeWrite_addr f b)
  case wrOor =>
    intro b h
    obtain ⟨rfl, rfl, rfl, hpast, -⟩ := (standsAt_wrOor hk ha b).1 h
    exact congrArg Except.ok (decodeWrite_past hpast b)
  case rdStatus =>
    intro k h
    obtain ⟨rfl, rfl, rfl⟩ := (standsAt_rdStatus hk ha k).1 h
    exact decodeEvent_read k w 0x00
  case read =>
    intro k f h
    obtain ⟨rfl, rfl, rfl⟩ := (standsAt_readOp hk ha k f).1 h
    rw [decodeEvent_read, decodeRead_addr]
  case rdOor =>
    intro k h
    obtain ⟨rfl, rfl, hpast, -⟩ := (standsAt_rdOor hk ha k).1 h
    rw [decodeEvent_read, decodeRead_past hpast]
  case rnack => intro h; obtain ⟨rfl, rfl⟩ := (standsAt_sRnack hk ha).1 h; rfl
  case buserr => intro h; obtain ⟨rfl, rfl⟩ := (standsAt_sBuserr hk ha).1 h; rfl

/-- The decoder answers for the six kinds, with a byte for `WRITE_DATA` alone (`spec/30_encoding.md` R63, R64). -/
theorem exists_decodeEvent_iff (kind : Nat) (w : Bool) (a : Nat) (data : Option Byte) :
    (∃ i, decodeEvent kind w a data = .ok i) ↔ kind ≤ 5 ∧ (data.isSome = true ↔ kind = 1) := by
  constructor
  · rintro ⟨i, h⟩
    apply decodeEvent_cases (P := fun _ => kind ≤ 5 ∧ (data.isSome = true ↔ kind = 1)) h
    all_goals intros; subst_vars; simp
  · rintro ⟨hkind, hbyte⟩
    cases data with
    | none =>
      have hne : kind ≠ 1 := fun h => nomatch hbyte.2 h
      interval_cases kind
      exacts [⟨_, rfl⟩, absurd rfl hne, ⟨_, rfl⟩, ⟨_, rfl⟩, ⟨_, rfl⟩, ⟨_, rfl⟩]
    | some b =>
      obtain rfl : kind = 1 := hbyte.1 rfl
      exact ⟨_, rfl⟩

/-- Settles O2: the selector taken apart, the two directions are `standsAt_of_decodeEvent` and
`decodeEvent_of_standsAt`. -/
theorem decodeFollowsTheOpcodeTable : Obligations.DecodeFollowsTheOpcodeTable := by
  intro sel data hsel
  obtain ⟨kind, w, a, hk, ha, rfl⟩ := exists_selectorOf_eq hsel
  rw [selectorBytes_eq w ha, decode_selectorBytes hk w ha, selectorOf_div_kind w ha]
  refine ⟨fun i => ⟨fun h => ?_, fun h => ?_⟩, exists_decodeEvent_iff kind w a data⟩
  · have hstands := standsAt_of_decodeEvent hk ha h
    rwa [StandsAt, selectorOf_div_kind w ha] at hstands
  · refine decodeEvent_of_standsAt hk ha ?_
    rwa [StandsAt, selectorOf_div_kind w ha]

end Sys2Proof.Machine

/-! # The slave engine's operations (`spec/40_slave_engine.md`)

Each operation is run once for all the fields it may be about: an access to a field of the register map is a store, a
common data write or an answered read at that field's address, and the statements about single addresses are read off. -/

namespace Sys2Proof.Machine

/-! ## The register map through its raw read -/

/-- The raw read after the store of a field (`spec/20_memory.md` R44). -/
theorem memRead_setField (s : State) (f : Field) (v : Byte) (a : Nat) :
    memRead (s.setField f v) a = if a = f.addr then some v else memRead s a := by
  by_cases ha : a = f.addr
  · rw [if_pos ha, ha, memRead_field, field_setField, if_pos rfl]
  · rw [if_neg ha]
    exact memRead_congr rfl ((Memory.read_write ..).trans (if_neg ha))

theorem memRead_eq_some_iff (s : State) (f : Field) (b : Byte) : memRead s f.addr = some b ↔ b = s.field f := by
  rw [memRead_field, Option.some_inj, eq_comm]

/-- The power-off reset stores nothing below `contrast` (R88). -/
theorem powerOffReset_read_low (s : State) {a : Nat} (ha : a ≤ 0x02) : (powerOffReset s).mem.read a = s.mem.read a := by
  rw [powerOffReset_read, if_neg (by omega), if_neg (by omega), if_neg (by omega), if_neg (by omega), if_neg (by omega),
    if_neg (by omega), if_neg (by omega)]

/-- From `contrast` on it stores the defaults (R88; D13, D14). -/
theorem powerOffDefaults_of_mem {s t : State} (h : t.mem = (powerOffReset s).mem) : PowerOffDefaults t := by
  have hread : ∀ a, a ≠ 0 → a < 0xA7 → memRead t a = some ((powerOffReset s).mem.read a) := fun a h0 ha => by
    rw [← h]; exact memRead_of_pos h0 ha
  refine ⟨(hread 0x03 (by decide) (by decide)).trans (by rw [powerOffReset_read]; rfl), fun a hlo hhi => ?_⟩
  rw [hread a (by omega) (by omega), powerOffReset_read]
  simp only [Config.cgramBlank, Config.cursorColDefault, Config.cursorRowDefault, Config.cursorTypeDefault]
  split_ifs <;> first | rfl | omega

/-! ## The events that access no field -/

/-- Settles O28: the operation writes the two registers and starts the outputs anew. -/
theorem setaddrMovesTheCursor : Obligations.SetaddrMovesTheCursor := fun _ _ _ => rfl

/-- Settles O29: each of the five writes its own register or output. -/
theorem addressPhaseAndRejections : Obligations.AddressPhaseAndRejections :=
  fun _ => ⟨rfl, fun _ _ => rfl, fun _ => rfl, fun _ => rfl, rfl⟩

/-- Settles O30: the operation clears the one register. -/
theorem busErrorClearsWriteStart : Obligations.BusErrorClearsWriteStart := fun _ => rfl

/-! ## `keyValue` -/

/-- Settles O31: a write of `status` moves the cursor, a write of `keyValue` is the store of one field. -/
theorem statusAndKeyWrites : Obligations.StatusAndKeyWrites := fun b s =>
  have hstore := memRead_setField s .keyValue b
  ⟨rfl, _, rfl, rfl, hstore 0x01, fun a ha => (hstore a).trans (if_neg ha)⟩

/-- Settles O36: the answer is the byte as it stood, and the clear is the store of one field. -/
theorem keyReadClears : Obligations.KeyReadClears := fun s _ =>
  have hstore := memRead_setField s .keyValue keyNone
  ⟨_, rfl, rfl, (memRead_field s .keyValue).symm, hstore 0x01, fun a ha => (hstore a).trans (if_neg ha)⟩

/-! ## Reads -/

/-- A read of any other field answers its byte and changes nothing else (`spec/40_slave_engine.md` R97; D8). -/
theorem exec_readOp_answers {f : Field} (hf : f ≠ .keyValue) (k : ReadEvent) {s : State} {v : Byte}
    (h : memRead s f.addr = some v) : exec (f.readOp k) s = .next (answered s v) := by
  rw [(memRead_eq_some_iff s f v).1 h]
  cases f with
  | keyValue => exact absurd rfl hf
  | power | contrast | cursorType | cursorRow | cursorCol | display i | cgram i | icon i => rfl

theorem status_byte_inj {a b : Status} : a.byte = b.byte ↔ a = b := by
  cases a <;> cases b <;> decide

/-- The byte at address 0x00 says which value `status` has (`spec/30_encoding.md` R69; D1). -/
theorem memRead_status_iff (s : State) (a : Status) : memRead s 0x00 = some a.byte ↔ s.status = a :=
  Option.some_inj.trans status_byte_inj

/-- Settles O35: the read of `status` answers its byte, that of a field the field's (`exec_readOp_answers`). -/
theorem readsAnswerTheStoredByte : Obligations.ReadsAnswerTheStoredByte := by
  intro s k v
  have hfield : ∀ f : Field, f ≠ .keyValue → memRead s f.addr = some v →
      exec (f.readOp k) s = .next (answered s v) := fun f hf => exec_readOp_answers hf k
  refine ⟨?status, hfield .power nofun, hfield .contrast nofun, hfield .cursorType nofun, hfield .cursorRow nofun,
    hfield .cursorCol nofun, fun i => hfield (.display i) nofun, fun i => hfield (.cgram i) nofun,
    fun i => hfield (.icon i) nofun, memRead_status_iff s .normal, memRead_status_iff s .processing, ?key⟩
  case status => intro h; cases h; rfl
  case key => intro t h; cases h; rfl

/-! ## The common data write -/

/-- What an accepted data write that changes the register map to `m` and raises `e` leaves (`spec/40_slave_engine.md` R84,
`spec/41_events_and_main_loop.md` R120; D2). -/
def acceptedChanged (s : State) (e : EventFlag) (m : Memory) : State :=
  { s with
    mem := m, nack := false, tx := none, mapAddr := s.mapAddr + 1#8
    evMask := s.evMask ||| e.mask, status := .processing, gie := decide (s.csDepth = 0) }

section
variable {f : Field} {side : State → State} {e : EventFlag} {b : Byte} {s : State}

theorem dataWrite_rejected (hl : f.legal b = false) :
    toOutcome (writeField f side e b s.beginEvent) = .next (rejected s) := by
  rw [writeField_illegal hl]; rfl

theorem dataWrite_unchanged (hl : f.legal b = true) (hb : memRead s f.addr = some b) :
    toOutcome (writeField f side e b s.beginEvent) = .next (acceptedUnchanged s) := by
  rw [writeField_unchanged (s := s.beginEvent) hl ((memRead_eq_some_iff s f b).1 hb)]; rfl

/-- A changing write stores the byte, has its side effect on the register map, and raises the flag. -/
theorem dataWrite_changed (hside : ∀ u, side u = u ∨ side u = powerOffReset u) (hr : RoomInGuard s)
    (hl : f.legal b = true) (hb : memRead s f.addr ≠ some b) :
    toOutcome (writeField f side e b s.beginEvent) =
      .next (acceptedChanged s e (side (s.beginEvent.setField f b)).mem) := by
  rw [Ne, memRead_eq_some_iff] at hb
  rcases hside (s.beginEvent.setField f b) with h | h <;>
    rw [writeField_changed (s := s.beginEvent) hl hb (by rw [h]; exact hr), h] <;> rfl

theorem memRead_acceptedChanged (u : State) {a : Nat} (ha : a ≠ 0) :
    memRead (acceptedChanged s e u.mem) a = memRead u a := memRead_congr_pos ha rfl

theorem memRead_beginEvent_setField (a : Nat) :
    memRead (s.beginEvent.setField f b) a = if a = f.addr then some b else memRead s a :=
  memRead_setField s.beginEvent f b a

end

/-- A data write without a side effect takes the common form for the bytes legal in its field. -/
theorem acceptedWrite_of_exec {f : Field} {op : Byte → Instr} {e : EventFlag} {legal : Byte → Prop}
    (hexec : ∀ b s, exec (op b) s = toOutcome (writeField f id e b s.beginEvent))
    (hlegal : ∀ b, legal b → f.legal b = true) : AcceptedWrite op f.addr legal e := by
  intro b s hr hb
  simp only [hexec]
  refine ⟨dataWrite_unchanged (hlegal b hb), fun hne => ?_⟩
  have hread : ∀ a, a ≠ 0 → memRead (acceptedChanged s e (s.beginEvent.setField f b).mem) a =
      if a = f.addr then some b else memRead s a :=
    fun a h0 => (memRead_acceptedChanged _ h0).trans (memRead_beginEvent_setField a)
  exact ⟨_, dataWrite_changed (fun _ => .inl rfl) hr (hlegal b hb) hne, rfl,
    (hread _ f.addr_pos.ne').trans (if_pos rfl), fun a h0 ha => (hread a h0).trans (if_neg ha)⟩

/-- The same with a largest legal value, above which the byte is rejected. -/
theorem commonWrite_of_exec {f : Field} {op : Byte → Instr} {e : EventFlag} {hi : Nat}
    (hexec : ∀ b s, exec (op b) s = toOutcome (writeField f id e b s.beginEvent))
    (hlegal : ∀ b, f.legal b = true ↔ b.toNat ≤ hi) : CommonWrite op f.addr hi e := by
  refine ⟨fun b s hb => (hexec b s).trans (dataWrite_rejected ?_), acceptedWrite_of_exec hexec fun b => (hlegal b).2⟩
  rw [← Bool.not_eq_true, hlegal]
  exact Nat.not_le.2 hb

/-- Settles O33: the four writes are the common data write of their field. -/
theorem scalarWritesTakeTheCommonForm : Obligations.ScalarWritesTakeTheCommonForm :=
  ⟨commonWrite_of_exec (fun _ _ => rfl) legal_contrast, commonWrite_of_exec (fun _ _ => rfl) legal_cursorType,
    commonWrite_of_exec (fun _ _ => rfl) legal_cursorRow, commonWrite_of_exec (fun _ _ => rfl) legal_cursorCol⟩

theorem lineFlag_first {i : Fin 80} (h : i.val < 40) : lineFlag i = .drawLine0 := if_pos h

theorem lineFlag_second {i : Fin 80} (h : 40 ≤ i.val) : lineFlag i = .drawLine1 := if_neg (Nat.not_lt.2 h)

/-- Settles O34: the writes of the arrays are the common data write of their element; the flag of a display byte is its
line's (`lineFlag_first`, `lineFlag_second`). -/
theorem arrayWritesTakeTheCommonForm : Obligations.ArrayWritesTakeTheCommonForm := by
  have hdisplay : ∀ i, AcceptedWrite (.wrDisplay i) (0x07 + i.val) (fun _ => True) (lineFlag i) := fun i =>
    acceptedWrite_of_exec (f := .display i) (fun _ _ => rfl) fun b _ => legal_display i b
  refine ⟨fun i hi => ?_, fun i hi => ?_, fun i => ?_, fun i => ?_⟩
  · exact lineFlag_first hi ▸ hdisplay i
  · exact lineFlag_second hi ▸ hdisplay i
  · exact commonWrite_of_exec (f := .cgram i) (fun _ _ => rfl) (legal_cgram i)
  · exact commonWrite_of_exec (f := .icon i) (fun _ _ => rfl) (legal_icon i)

/-! ## `power` -/

/-- Settles O37: `powerOffReset` stores the defaults from 0x03 on (`powerOffDefaults_of_mem`) and nothing below. -/
theorem powerOffResetStoresTheDefaults : Obligations.PowerOffResetStoresTheDefaults := fun s =>
  ⟨powerOffReset s, rfl, rfl, powerOffDefaults_of_mem rfl, fun _ ha => memRead_congr rfl (powerOffReset_read_low s ha)⟩

/-- Whatever the side effect of a write of `power` does, the bytes below `contrast` are as the store left them (R88). -/
theorem powerSideEffect_read_low (b : Byte) (s : State) {a : Nat} (ha : a ≤ 0x02) :
    (powerSideEffect b s).mem.read a = s.mem.read a := by
  rcases powerSideEffect_cases b s with h | h <;> rw [h]
  exact powerOffReset_read_low s ha

theorem powerSideEffect_on {b : Byte} (h : b.getLsbD 0 = true) (s : State) : powerSideEffect b s = s := if_pos h

theorem powerSideEffect_off {b : Byte} (h : b.getLsbD 0 = false) (s : State) : powerSideEffect b s = powerOffReset s :=
  if_neg (by rw [h]; exact Bool.false_ne_true)

/-- Settles O32: `WR_POWER` is the common data write with `powerSideEffect` between the store and the flag. -/
theorem powerWrite : Obligations.PowerWrite := by
  intro b s hr
  refine ⟨fun hb => ?above, fun hb hsame => ?same, fun hb hne => ?changed⟩
  case above => exact dataWrite_rejected (f := .power) (decide_eq_false (Nat.not_le.2 hb))
  case same => exact dataWrite_unchanged (f := .power) ((legal_power b).2 hb) hsame
  case changed =>
    have hexec := dataWrite_changed (e := .powerContrast) (powerSideEffect_cases b) hr ((legal_power b).2 hb) hne
    have hlow : ∀ a, a ≠ 0 → a ≤ 0x02 →
        memRead (acceptedChanged s .powerContrast (powerSideEffect b (s.beginEvent.setField .power b)).mem) a =
          if a = 0x02 then some b else memRead s a := fun a h0 ha =>
      calc memRead (acceptedChanged s .powerContrast (powerSideEffect b (s.beginEvent.setField .power b)).mem) a
          = memRead (powerSideEffect b (s.beginEvent.setField .power b)) a := memRead_acceptedChanged _ h0
        _ = memRead (s.beginEvent.setField .power b) a := memRead_congr_pos h0 (powerSideEffect_read_low b _ ha)
        _ = if a = 0x02 then some b else memRead s a := memRead_beginEvent_setField a
    refine ⟨_, hexec, rfl, hlow 0x02 (by decide) (by decide), hlow 0x01 (by decide) (by decide), fun hon a ha => ?on,
      fun hoff => ?off⟩
    case on =>
      have hpower : a ≠ 0x02 := by omega
      rw [powerSideEffect_on hon, memRead_acceptedChanged _ (by omega)]
      exact (memRead_beginEvent_setField a).trans (if_neg hpower)
    case off =>
      rw [powerSideEffect_off hoff]
      exact powerOffDefaults_of_mem rfl

end Sys2Proof.Machine

/-! # What the operations leave of the cursor and of `status` (`spec/40_slave_engine.md` R112, `spec/10_state.md` R11) -/

namespace Sys2Proof.Machine

/-- From `s` to `t` the cursor stays, and `status` stays or turns PROCESSING. -/
structure CursorAndStatusKept (s t : State) : Prop where
  mapAddr : t.mapAddr = s.mapAddr
  status : t.status = s.status ∨ t.status = .processing

theorem status_ne_normal {s t : State} (h : t.status = s.status ∨ t.status = .processing)
    (hs : s.status = .processing) : t.status ≠ .normal := by
  rcases h with h | h
  · rw [h, hs]; nofun
  · rw [h]; nofun

/-! ## The operations that are no slave event -/

theorem kpRead_cursorAndStatusKept (s : State) : CursorAndStatusKept s (kpRead s).2 := by
  rw [kpRead_frame]; exact ⟨rfl, .inl rfl⟩

theorem kpInsert_cursorAndStatusKept (k : Byte) (s : State) : CursorAndStatusKept s (kpInsert k s).2 := by
  rw [kpInsert_frame]; exact ⟨rfl, .inl rfl⟩

theorem kpCapture_cursorAndStatusKept {s t : State} (h : kpCapture s = .ok t) : CursorAndStatusKept s t := by
  rw [kpCapture_frame h]; exact ⟨rfl, .inl rfl⟩

theorem frontBody_cursorAndStatusKept (s : State) : CursorAndStatusKept s (frontBody s).2 := by
  rw [frontBody_frame]; exact ⟨rfl, .inl rfl⟩

theorem finalBody_cursorAndStatusKept (s : State) : CursorAndStatusKept s (finalBody s).2 := by
  rw [finalBody_frame]; exact ⟨rfl, .inl rfl⟩

theorem tick_cursorAndStatusKept {s t : State} (h : exec .tick s = .next t) : CursorAndStatusKept s t := by
  obtain ⟨u, hu, hcases⟩ := tick_next h
  have hcap := kpCapture_cursorAndStatusKept hu
  rcases hcases with ⟨-, rfl⟩ | ⟨-, rfl⟩
  · exact { hcap with }
  · exact ⟨hcap.mapAddr, .inr rfl⟩

theorem handler_cursorAndStatusKept {f : EventFlag} {s t : State} (h : exec f.handler s = .next t) :
    CursorAndStatusKept s t := by
  cases f with
  | timer =>
    obtain ⟨-, rfl⟩ := dspTimer_next h
    exact { finalBody_cursorAndStatusKept s with }
  | setCgram =>
    obtain ⟨⟨cs, ht⟩, -⟩ := pushSlot_next (toOutcome_next (x := pushSlot 0 s) h)
    rw [ht]
    exact ⟨rfl, .inl rfl⟩
  | powerContrast | cursorSet | cursorDraw | drawLine0 | drawLine1 | drawIcon =>
    obtain ⟨cs, rfl⟩ := display_next (by simp [EventFlag.handler]) h
    exact ⟨rfl, .inl rfl⟩

/-- The operations that drain the event mask (`spec/41_events_and_main_loop.md` R122, R123). -/
def IsDrain (i : Instr) : Prop := i = .evDrain ∨ i = .mlPoll

theorem drain_next {i : Instr} {s t : State} (hi : IsDrain i) (h : exec i s = .next t) :
    t.mapAddr = s.mapAddr ∧ t.status = s.drainFlags.status := by
  rcases hi with rfl | rfl
  · rw [evDrain_exec_next h]; exact ⟨rfl, rfl⟩
  · rw [mlPoll_next h]; exact ⟨rfl, rfl⟩

/-- Every other operation but the slave events and the reset keeps the cursor, and does not make `status` NORMAL. -/
theorem call_cursorAndStatusKept {i : Instr} {s t : State} (hf : i.format ≠ .slv) (hreset : i ≠ .reset)
    (hdrain : ¬ IsDrain i) (h : exec i s = .next t) : CursorAndStatusKept s t := by
  cases i with
  | powerOffReset => cases h; exact ⟨rfl, .inl rfl⟩
  | evRaise f => rw [evRaise_next (toOutcome_next (x := evRaise f s) h)]; exact ⟨rfl, .inr rfl⟩
  | evDrain => exact absurd (.inl rfl) hdrain
  | mlPoll => exact absurd (.inr rfl) hdrain
  | dspTimer => exact handler_cursorAndStatusKept (f := .timer) h
  | dspPowerContrast => exact handler_cursorAndStatusKept (f := .powerContrast) h
  | dspCursorSet => exact handler_cursorAndStatusKept (f := .cursorSet) h
  | dspCursorDraw => exact handler_cursorAndStatusKept (f := .cursorDraw) h
  | dspDrawLine0 => exact handler_cursorAndStatusKept (f := .drawLine0) h
  | dspDrawLine1 => exact handler_cursorAndStatusKept (f := .drawLine1) h
  | dspSetCgram => exact handler_cursorAndStatusKept (f := .setCgram) h
  | dspDrawIcon => exact handler_cursorAndStatusKept (f := .drawIcon) h
  | kpInit cfg => obtain ⟨-, rfl⟩ := kpInit_next h; exact ⟨rfl, .inl rfl⟩
  | kpScan => obtain ⟨-, rfl⟩ := kpScan_next h; exact ⟨rfl, .inl rfl⟩
  | kpRead => obtain ⟨-, rfl⟩ := kpRead_next h; exact { kpRead_cursorAndStatusKept s with }
  | kpInsert k => obtain ⟨-, rfl⟩ := kpInsert_next h; exact { kpInsert_cursorAndStatusKept k s with }
  | kpCapture => exact kpCapture_cursorAndStatusKept (toOutcome_next (x := kpCapture s) h)
  | kpFront => obtain ⟨-, rfl⟩ := kpFront_next h; exact { frontBody_cursorAndStatusKept s with }
  | kpFinal => obtain ⟨-, rfl⟩ := kpFinal_next h; exact { finalBody_cursorAndStatusKept s with }
  | kpClear => obtain ⟨-, rfl⟩ := kpClear_next h; exact ⟨rfl, .inl rfl⟩
  | csBegin => obtain ⟨-, rfl⟩ := csBegin_next h; exact ⟨rfl, .inl rfl⟩
  | csEnd => rcases csEnd_next h with ⟨-, rfl⟩ | ⟨-, rfl⟩ <;> exact ⟨rfl, .inl rfl⟩
  | tick => exact tick_cursorAndStatusKept h
  | reset => exact absurd rfl hreset
  | _ => exact absurd rfl hf

/-! ## The slave events -/

/-- `status` after a slave event: as it was, or PROCESSING with a raised flag. -/
theorem slave_status {i : Instr} {s t : State} (hf : i.format = .slv) (h : exec i s = .next t) :
    t.status = s.status ∨ t.status = .processing := by
  rcases slave_forms hf s with ⟨w, m, n, x, hx, -, -⟩ | ⟨v, x, hx, -⟩ | ⟨f, side, e, b, -, -, -, -, -, hx⟩ <;>
    rw [hx] at h
  · cases h; exact .inl rfl
  · cases h; exact .inl rfl
  · rcases writeField_next (toOutcome_next h) with rfl | rfl | ⟨-, rfl⟩
    · exact .inl rfl
    · exact .inl rfl
    · exact .inr rfl

/-- The cursor after a slave event: as it was, set by an accepted address byte, or advanced by an accepted byte. -/
theorem slave_cursor {i : Instr} {s t : State} (hf : i.format = .slv) (h : exec i s = .next t) :
    t.mapAddr = s.mapAddr ∨ i = .sSetaddr t.mapAddr ∨
      (t.nack = false ∧ t.mapAddr = s.mapAddr + 1#8 ∧ (i.readEvent.isSome = true ∨ i.dataByte.isSome = true)) := by
  rcases slave_forms hf s with ⟨w, m, n, x, hx, hnack, hm⟩ | ⟨v, x, hx, hbyte⟩ | ⟨f, side, e, b, hside, -, hb, -, -, hx⟩ <;>
    rw [hx] at h
  · cases h
    rcases hm with hm | hm | ⟨hm, hbyte⟩
    · exact .inl hm
    · exact .inr (.inl hm)
    · cases n with
      | true =>
        obtain ⟨-, hstay, -⟩ := hnack rfl
        exact .inl hstay
      | false => exact .inr (.inr ⟨rfl, hm, hbyte⟩)
  · cases h; exact .inr (.inr ⟨rfl, rfl, hbyte⟩)
  · have hbyte : i.readEvent.isSome = true ∨ i.dataByte.isSome = true := .inr (by rw [hb]; rfl)
    rcases writeField_next (toOutcome_next h) with rfl | rfl | ⟨-, rfl⟩
    · exact .inl rfl
    · exact .inr (.inr ⟨rfl, rfl, hbyte⟩)
    · rcases hside (s.beginEvent.setField f b) with hu | hu <;> rw [hu] <;> exact .inr (.inr ⟨rfl, rfl, hbyte⟩)

/-- Settles O22: of the slave events the cursor is said by `slave_cursor`, a drain finds a flag or does not, and every
other operation but the reset writes neither (`call_cursorAndStatusKept`). -/
theorem writersOfCursorAndStatus : Obligations.WritersOfCursorAndStatus := by
  intro i s t h
  by_cases hreset : i = .reset
  · exact ⟨fun _ => .inr (.inl hreset), fun _ _ => .inr hreset⟩
  by_cases hf : i.format = .slv
  · refine ⟨fun hne => ?_, fun hs ht => absurd ht (status_ne_normal (slave_status hf h) hs)⟩
    rcases slave_cursor hf h with hm | hm | hm
    · exact absurd hm hne
    · exact .inl hm
    · exact .inr (.inr ⟨hf, hm⟩)
  by_cases hdrain : IsDrain i
  · obtain ⟨hm, hstatus⟩ := drain_next hdrain h
    refine ⟨fun hne => absurd hm hne, fun _ ht => .inl ⟨hdrain, ?_⟩⟩
    by_contra hmask
    rw [hstatus, drainFlags_status, if_neg hmask] at ht
    cases ht
  · have hkept := call_cursorAndStatusKept hf hreset hdrain h
    exact ⟨fun hne => absurd hkept.mapAddr hne, fun hs ht => absurd ht (status_ne_normal hkept.status hs)⟩

end Sys2Proof.Machine

/-! # What is refused (`spec/40_slave_engine.md` R111)

An operation refuses nothing but a second `KP_INIT`, which no step runs; so a step refuses exactly what the engine's
callback refuses before it runs an operation. -/

namespace Sys2Proof.Machine

/-! ## The operations -/

theorem toOutcome_ne_refused (x : Except Fault State) (r : Refusal) : toOutcome x ≠ .refused r := by
  cases x <;> nofun

theorem toOutcomeWith_ne_refused {α : Type} (result : α → CallResult) (x : Except Fault (α × State)) (r : Refusal) :
    toOutcomeWith result x ≠ .refused r := by
  cases x <;> nofun

theorem slave_ne_refused {i : Instr} (hf : i.format = .slv) (s : State) (r : Refusal) : exec i s ≠ .refused r := by
  rcases slave_forms hf s with ⟨w, m, n, x, hx, -, -⟩ | ⟨v, x, hx, -⟩ | ⟨f, side, e, b, -, -, -, -, -, hx⟩ <;> rw [hx]
  · nofun
  · nofun
  · exact toOutcome_ne_refused _ r

theorem mlPoll_ne_refused (s : State) (r : Refusal) : exec .mlPoll s ≠ .refused r := by
  change execMlPoll s ≠ _
  unfold execMlPoll
  split <;> nofun

theorem handler_ne_refused (f : EventFlag) (s : State) (r : Refusal) : exec f.handler s ≠ .refused r := by
  cases f with
  | timer => change execDspTimer s ≠ _; unfold execDspTimer; split <;> nofun
  | powerContrast => change execDspPowerContrast s ≠ _; unfold execDspPowerContrast; split <;> nofun
  | cursorSet => change execDspCursorSet s ≠ _; unfold execDspCursorSet; split <;> nofun
  | cursorDraw => change execDspCursorDraw s ≠ _; unfold execDspCursorDraw; split <;> nofun
  | drawLine0 | drawLine1 | setCgram => exact toOutcome_ne_refused _ r
  | drawIcon => change execDspDrawIcon s ≠ _; unfold execDspDrawIcon; split <;> nofun

theorem call_ne_refused (c : MainCall) (s : State) (r : Refusal) : exec c.instr s ≠ .refused r := by
  cases c with
  | kpRead | kpFront | kpFinal => exact toOutcomeWith_ne_refused _ _ r
  | kpClear | csBegin | csEnd => exact toOutcome_ne_refused _ r

/-! ## `MAIN` and the turns -/

theorem runMainOp_ne_refused (op : MainOp) (s : State) (r : Refusal) : runMainOp op s ≠ .refused r := by
  cases op with
  | handler f => exact handler_ne_refused f s r
  | latchKey k => exact toOutcome_ne_refused _ r
  | pushSlot n => exact toOutcome_ne_refused _ r
  | lcdCall c => nofun

/-- `MAIN` runs `KP_INIT` at the stage of the boot it belongs to. -/
theorem mainStep_ne_refused (s : State) (r : Refusal) : mainStep s ≠ .refused r := by
  unfold mainStep
  split
  case h_1 hboot =>
    change execKpInit s.params.pinMap s ≠ _
    rw [execKpInit, if_pos hboot]
    nofun
  case h_6 =>
    unfold loopStep
    split
    · exact mlPoll_ne_refused s r
    · exact runMainOp_ne_refused _ _ r
  all_goals nofun

theorem takeTurn_ne_refused (x : Turn) (s : State) (r : Refusal) : takeTurn x s ≠ .refused r := by
  cases x with
  | main => exact mainStep_ne_refused s r
  | call c =>
    unfold takeTurn
    dsimp only
    split
    · exact call_ne_refused c s r
    · exact mainStep_ne_refused _ r
  | bus | period | keys m | restart => nofun

/-! ## The delivery -/

/-- The bytes of an event decode to nothing exactly for the kind codes that name no event (`spec/30_encoding.md` R64,
R71; D4). -/
theorem decode_fetch_error_iff (s : State) :
    (∃ e, decode (fetchBytes s) = .error e) ↔ 6 ≤ s.i2cEvent.kind.toNat := by
  have hk : s.i2cEvent.kind.toNat < 8 := s.i2cEvent.kind.isLt
  rw [decode_fetch]
  generalize s.i2cEvent.kind.toNat = n at hk ⊢
  interval_cases n <;> simp [decodeEvent]

/-- The engine's callback refuses the events of the other unit and of an unknown kind (R111; D29). -/
theorem slaveCallback_refused_iff (s : State) (r : Refusal) :
    slaveCallback s = .refused r ↔
      (r = .otherBusUnit ∧ s.i2cEvent.unit = .master) ∨
        (r = .unknownEventKind ∧ s.i2cEvent.unit = .slave ∧ 6 ≤ s.i2cEvent.kind.toNat) := by
  unfold slaveCallback
  rw [← decode_fetch_error_iff]
  cases s.i2cEvent.unit with
  | master => simp [eq_comm]
  | slave =>
    cases hdec : decode (fetchBytes s) with
    | ok i => simp [slave_ne_refused (decode_slv hdec).2 s r]
    | error e => simp [eq_comm]

theorem returning_refused_iff (o : Host.Outcome State Fault Refusal) (r : Refusal) :
    returning o = .refused r ↔ o = .refused r := by
  cases o <;> simp [returning]

/-- The delivery of a slave event refuses what the callback refuses: entry does not touch the event. -/
theorem deliverSlave_refused_iff (s : State) (r : Refusal) :
    deliverSlave (countArbitration s) = .refused r ↔
      (r = .otherBusUnit ∧ s.i2cEvent.unit = .master) ∨
        (r = .unknownEventKind ∧ s.i2cEvent.unit = .slave ∧ 6 ≤ s.i2cEvent.kind.toNat) := by
  obtain ⟨n, hn⟩ := countArbitration_eq s
  rw [deliverSlave, returning_refused_iff, slaveCallback_refused_iff, enterSlave_i2cEvent, hn]

theorem deliverTimer_ne_refused (s : State) (r : Refusal) : deliverTimer s ≠ .refused r := by
  rw [deliverTimer, Ne, returning_refused_iff]
  exact toOutcome_ne_refused _ r

/-- The slave's handler is chosen only if its interrupt is pending (`spec/60_exceptions.md` R187). -/
theorem irqI2C_of_nextSource {s : State} (hp : s.irqI2C = true ∨ s.irqTimer = true) (h : nextSource s = .i2c) :
    s.irqI2C = true := by
  by_contra hi
  rw [nextSource_timer (Bool.eq_false_of_not_eq_true hi) (hp.resolve_left hi)] at h
  cases h

/-- Settles O19: outside a delivery nothing is refused, a tick never is, and a slave event as `deliverSlave_refused_iff`
says. -/
theorem exactlyUnknownEventsAreRefused : Obligations.ExactlyUnknownEventsAreRefused := by
  refine fun s => ⟨fun r h => ?only, fun hg hisr hi ht => ?conversely⟩
  case only =>
    cases hd : canDeliver s with
    | true =>
      obtain ⟨-, -, hp⟩ := (canDeliver_iff s).1 hd
      rw [step_deliver hd, deliver] at h
      cases hsrc : nextSource s with
      | i2c =>
        rw [hsrc] at h
        exact ⟨rfl, irqI2C_of_nextSource hp hsrc, (deliverSlave_refused_iff s r).1 h⟩
      | timer => rw [hsrc] at h; exact absurd h (deliverTimer_ne_refused _ r)
    | false =>
      cases hts : s.turns with
      | nil => rw [step_main hd hts] at h; exact absurd h (mainStep_ne_refused s r)
      | cons x ts => rw [step_turn hd hts] at h; exact absurd h (takeTurn_ne_refused x _ r)
  case conversely =>
    have hstep : step s = deliverSlave (countArbitration s) := by
      rw [step_deliver ((canDeliver_iff s).2 ⟨hg, hisr, .inl hi⟩), deliver, nextSource_i2c ht]
    rw [hstep]
    exact ⟨fun hu => (deliverSlave_refused_iff s _).2 (.inl ⟨rfl, hu⟩),
      fun hu hk => (deliverSlave_refused_iff s _).2 (.inr ⟨rfl, hu, hk⟩)⟩

end Sys2Proof.Machine

/-! # The events and the main loop's poll (`spec/41_events_and_main_loop.md` R120 to R124) -/

namespace Sys2Proof.Machine

/-- No two flags share a bit (`spec/30_encoding.md` R68). -/
theorem flag_mask_bit (f g : EventFlag) : f.mask.getLsbD g.bit = decide (g = f) := by
  cases f <;> cases g <;> rfl

/-- A raise is a bracket around `raiseFlag`. -/
theorem exec_evRaise_room (f : EventFlag) {s : State} (h : RoomInGuard s) :
    exec (.evRaise f) s = .next (afterBracket (s.raiseFlag f)) := congrArg toOutcome (evRaise_room f h)

/-- A second raise finds the flag set, `status` PROCESSING and the bracket closed (R121). -/
theorem raise_raise (f : EventFlag) (s : State) :
    afterBracket ((afterBracket (s.raiseFlag f)).raiseFlag f) = afterBracket (s.raiseFlag f) := by
  have hmask : s.evMask ||| f.mask ||| f.mask = s.evMask ||| f.mask := by rw [BitVec.or_assoc, BitVec.or_self]
  exact congrArg (fun m => { afterBracket (s.raiseFlag f) with evMask := m }) hmask

/-- Settles O38: the flag's bit is its own (`flag_mask_bit`), and a raise is idempotent (`raise_raise`). -/
theorem raiseSetsTheFlagAndCoalesces : Obligations.RaiseSetsTheFlagAndCoalesces := by
  refine fun f s =>
    ⟨fun hroom => ⟨afterBracket (s.raiseFlag f), exec_evRaise_room f hroom, rfl, fun g => ?bits, ?again⟩, fun hfull => congrArg toOutcome (evRaise_full f hfull)⟩
  case bits =>
    change (s.evMask ||| f.mask).getLsbD g.bit = _
    rw [BitVec.getLsbD_or, flag_mask_bit]
  case again =>
    have hroom' : RoomInGuard (afterBracket (s.raiseFlag f)) := hroom
    rw [exec_evRaise_room f hroom', raise_raise]

/-- Settles O39: a drain is a bracket around `drainFlags`. -/
theorem drainClearsTheMaskAndSetsStatus : Obligations.DrainClearsTheMaskAndSetsStatus :=
  fun _ hroom => congrArg (toOutcomeWith CallResult.mask) (evDrain_room hroom)

/-- The poll drains the mask and lines up the handlers of the drained flags (R123). -/
theorem exec_mlPoll_room {s : State} (h : RoomInGuard s) : exec .mlPoll s = .next { afterBracket s.drainFlags with
    result := .mask s.evMask, mainOps := (flagsOf s.evMask).map .handler ++ s.mainOps } := by
  change execMlPoll s = _
  simp only [execMlPoll, evDrain_room h, afterBracket_mainOps, drainFlags_mainOps]

theorem mem_flagsOf (m : BitVec 8) (f : EventFlag) : f ∈ flagsOf m ↔ m.getLsbD f.bit = true := by
  have hall : f ∈ handlerOrder := by cases f <;> decide
  simp [flagsOf, hall]

/-- Settles O40: the drained flags are filtered out of the fixed order. -/
theorem pollLinesUpTheHandlersInOrder : Obligations.PollLinesUpTheHandlersInOrder :=
  fun s hroom => ⟨flagsOf s.evMask, exec_mlPoll_room hroom, List.filter_sublist, mem_flagsOf s.evMask⟩

end Sys2Proof.Machine

/-! # The handlers that make calls (`spec/41_events_and_main_loop.md` R125, R127 to R132, R134) -/

namespace Sys2Proof.Machine

/-- A handler that copies the register map in its bracket and makes pin assignments and LCD calls after it: neither `TIMER`'s
nor `SET_CGRAM`'s. -/
def MakesCalls (f : EventFlag) : Prop := f ≠ .timer ∧ f ≠ .setCgram

/-- The bracket of such a handler lines up the calls of its rule. -/
theorem exec_handler_room {f : EventFlag} (hf : MakesCalls f) {s : State} (h : RoomInGuard s) :
    exec f.handler s = .next ((afterBracket s).lineUpCalls (handlerCalls s f)) := by
  cases f with
  | timer => exact absurd rfl hf.1
  | setCgram => exact absurd rfl hf.2
  | powerContrast =>
    change execDspPowerContrast s = _
    rw [execDspPowerContrast, bracketGet_room (fun _ _ _ => rfl) h]
    simp only [handlerCalls, State.field, Field.addr, afterBracket_panelPin, Bool.and_eq_true, Bool.not_eq_true']
  | cursorSet =>
    change execDspCursorSet s = _
    rw [execDspCursorSet, bracketGet_room (fun _ _ _ => rfl) h]
    rfl
  | cursorDraw =>
    change execDspCursorDraw s = _
    rw [execDspCursorDraw, bracketGet_room (fun _ _ _ => rfl) h]
    rfl
  | drawLine0 => exact congrArg toOutcome (drawLine_room 0 h)
  | drawLine1 => exact congrArg toOutcome (drawLine_room 1 h)
  | drawIcon =>
    change execDspDrawIcon s = _
    rw [execDspDrawIcon, bracketGet_room (fun _ _ _ => rfl) h]
    rfl

/-- The panel and the backlight pin once the handlers of `fs` have made their calls (R127). -/
def State.pinsAfter (s : State) (fs : List EventFlag) : Bool × Bool :=
  if .powerContrast ∈ fs then ((s.mem.read 0x02).getLsbD 0, (s.mem.read 0x02).getLsbD 1) else (s.panelPin, s.backlightPin)

theorem pinsAfter_handlerCalls {f : EventFlag} (hf : MakesCalls f) (s : State) :
    ((handlerCalls s f).foldl (fun b c => c.panelAfter b) s.panelPin,
      (handlerCalls s f).foldl (fun b c => c.backlightAfter b) s.backlightPin) = s.pinsAfter [f] := by
  cases f with
  | timer => exact absurd rfl hf.1
  | setCgram => exact absurd rfl hf.2
  | powerContrast => simp only [handlerCalls]; split <;> rfl
  | cursorSet | cursorDraw | drawLine0 | drawLine1 | drawIcon => rfl

/-- What such a handler does, from its bracket to its last call. -/
theorem handlerMakes_handlerCalls {f : EventFlag} (hf : MakesCalls f) {s : State} (h : RoomInGuard s) :
    HandlerMakes f.handler s (handlerCalls s f) (s.pinsAfter [f]).1 (s.pinsAfter [f]).2 := by
  refine ⟨_, exec_handler_room hf h, rfl, fun hmain => ?_⟩
  have hmain' : OnlyMain ((afterBracket s).lineUpCalls (handlerCalls s f)) := hmain
  rw [hmain'.run_calls (handlerCalls s f) rfl, ← pinsAfter_handlerCalls hf]
  rfl

/-- What the raw read answers inside the map is the byte of memory. -/
theorem read_eq_of_memRead {s : State} {a : Nat} {v : Byte} (h : memRead s a = some v) (h0 : a ≠ 0) (ha : a < 0xA7) :
    s.mem.read a = v := Option.some_inj.1 ((memRead_of_pos h0 ha).symm.trans h)

/-- Bytes read one after the other are a copy of the map. -/
theorem eq_copyBytes_of_memRead {s : State} {a n : Nat} {bytes : List Byte} (hlen : bytes.length = n)
    (h : ∀ j, j < n → memRead s (a + j) = bytes[j]?) (h0 : a ≠ 0) (ha : a + n ≤ 0xA7) : bytes = copyBytes s a n := by
  refine List.ext_getElem (by simp [copyBytes, hlen]) fun j hj _ => ?_
  have hread := read_eq_of_memRead ((h j (hlen ▸ hj)).trans (List.getElem?_eq_getElem hj)) (by omega) (by omega)
  simp [copyBytes, hread]

/-- Settles O43: the calls are `handlerCalls` of the two flags, with the bytes the raw read answers. -/
theorem powerAndCursorTypeHandlers : Obligations.PowerAndCursorTypeHandlers := by
  intro s p c t hroom hp hc ht
  cases read_eq_of_memRead hp (by decide) (by decide)
  cases read_eq_of_memRead hc (by decide) (by decide)
  cases read_eq_of_memRead ht (by decide) (by decide)
  exact ⟨handlerMakes_handlerCalls (f := .powerContrast) ⟨nofun, nofun⟩ hroom,
    handlerMakes_handlerCalls (f := .cursorSet) ⟨nofun, nofun⟩ hroom⟩

/-- Settles O44: the call is `handlerCalls` of `CURSOR_DRAW`, with the bytes the raw read answers. -/
theorem cursorDrawHandlerSetsTheCursor : Obligations.CursorDrawHandlerSetsTheCursor := by
  intro s r c hroom hr hc
  cases read_eq_of_memRead hr (by decide) (by decide)
  cases read_eq_of_memRead hc (by decide) (by decide)
  exact handlerMakes_handlerCalls (f := .cursorDraw) ⟨nofun, nofun⟩ hroom

/-- Settles O45: the sixteen bytes are the copy the handler's bracket makes (`eq_copyBytes_of_memRead`). -/
theorem lineHandlersCopySixteenBytes : Obligations.LineHandlersCopySixteenBytes := by
  intro s r c bytes hroom hr hc hlen
  cases read_eq_of_memRead hr (by decide) (by decide)
  cases read_eq_of_memRead hc (by decide) (by decide)
  constructor <;> intro hbytes <;> cases eq_copyBytes_of_memRead hlen hbytes (by decide) (by decide)
  · exact handlerMakes_handlerCalls (f := .drawLine0) ⟨nofun, nofun⟩ hroom
  · exact handlerMakes_handlerCalls (f := .drawLine1) ⟨nofun, nofun⟩ hroom

/-- The calls of the icon handler number the icons. -/
theorem handlerCalls_drawIcon (s : State) :
    handlerCalls s .drawIcon = (copyBytes s 0x97 16).zipIdx.map fun p => .writeIcon p.2 p.1 :=
  List.ext_getElem (by simp [handlerCalls, copyBytes]) fun i _ _ => by simp [handlerCalls, copyBytes]

/-- Settles O48: the sixteen icons are the copy the handler's bracket makes (`eq_copyBytes_of_memRead`). -/
theorem iconHandlerPushesAllSixteen : Obligations.IconHandlerPushesAllSixteen := by
  intro s icons hroom hlen hicons
  cases eq_copyBytes_of_memRead hlen hicons (by decide) (by decide)
  rw [← handlerCalls_drawIcon]
  exact handlerMakes_handlerCalls (f := .drawIcon) ⟨nofun, nofun⟩ hroom

end Sys2Proof.Machine

/-! # Runs of the machine with `MAIN` alone moving -/

namespace Sys2Proof.Machine

theorem run_one {s t : State} (h : step s = .next t) : Host.Core.run core 1 s = .next t := run_succ h

theorem run_trans {s t u : State} {m n : Nat} (h : Host.Core.run core m s = .next t)
    (h' : Host.Core.run core n t = .next u) : Host.Core.run core (m + n) s = .next u := (run_add h).trans h'

/-- The first step of a run that answers a next state. -/
theorem run_succ_next {s u : State} {n : Nat} (h : Host.Core.run core (n + 1) s = .next u) :
    ∃ t, step s = .next t ∧ Host.Core.run core n t = .next u := by
  have hrun := Host.Core.run.eq_2 core s n
  cases hs : step s with
  | next t => exact ⟨t, rfl, (run_succ hs).symm.trans h⟩
  | fault e => rw [show core.step s = .fault e from hs, h] at hrun; cases hrun
  | refused r => rw [show core.step s = .refused r from hs, h] at hrun; cases hrun

/-- What every step keeps, a run keeps. -/
theorem run_keeps {I : State → Prop} (hI : ∀ u v, I u → step u = .next v → I v) {n : Nat} {s t : State} (hs : I s)
    (h : Host.Core.run core n s = .next t) : I t := by
  induction n generalizing s with
  | zero => cases h; exact hs
  | succ n ih =>
    obtain ⟨u, hstep, hrun⟩ := run_succ_next h
    exact ih (hI s u hs hstep) hrun

/-- `MAIN` alone, at the top of its loop. -/
theorem OnlyMain.step_top {s : State} (h : OnlyMain s) (hm : s.mainOps = []) : step s = exec .mlPoll s := by
  have hd := h.canDeliver_eq
  obtain ⟨hb, -, -, hturns⟩ := h
  rw [step_main hd hturns]
  simp only [mainStep, hb, loopStep, hm]

theorem roomInGuard_of_depth_zero {s : State} (hd : s.csDepth = 0) : RoomInGuard s := by
  change s.csDepth < 255
  omega

/-- `MAIN` alone makes a call that is first in line. -/
theorem OnlyMain.step_lcdCall {s : State} (h : OnlyMain s) {c : LcdCall} {rest : List MainOp}
    (hm : s.mainOps = .lcdCall c :: rest) : step s = .next (State.makeCall { s with mainOps := rest } c) := h.step_eq hm

end Sys2Proof.Machine

/-! # The timer's handler (`spec/41_events_and_main_loop.md` R126) -/

namespace Sys2Proof.Machine

theorem entries_eq_nil_iff (s : State) : entries s = [] ↔ s.ksize = 0 := by
  rw [← List.length_eq_zero_iff, length_entries]

theorem exec_dspTimer_room {s : State} (hring : ringOk s = true) (h : RoomInGuard s) :
    exec .dspTimer s = .next { afterBracket (finalBody s).2 with
      mainOps := (if (finalBody s).1 = keyNone then [] else [.latchKey (finalBody s).1]) ++ (finalBody s).2.mainOps } := by
  change execDspTimer s = _
  simp only [execDspTimer, kpFinal_ok hring h, afterBracket_mainOps]

/-- An empty ring leaves the handler nothing to store (D22). -/
theorem exec_dspTimer_empty {s : State} (hring : RingSound s) (h : RoomInGuard s) (hempty : entries s = []) :
    exec .dspTimer s = .next (afterBracket s) := by
  have hbody : finalBody s = (keyNone, s) := if_pos ((entries_eq_nil_iff s).1 hempty)
  rw [exec_dspTimer_room hring.ringOk h, hbody]
  rfl

/-- From a ring that holds a key the handler takes the newest, which `MAIN` stores next (D25). -/
theorem exec_dspTimer_key {s : State} (hring : RingSound s) (h : RoomInGuard s) {k : Byte}
    (hk : (entries s).getLast? = some k) : exec .dspTimer s = .next { afterBracket s with
      kbegin := s.kend, ksize := 0, mainOps := .latchKey k :: s.mainOps } := by
  obtain ⟨hidx, hcodes⟩ := (ringSound_iff s).1 hring
  have hcode : k.toNat ≤ 15 := hcodes k (List.mem_of_getLast? hk)
  have hkey : k ≠ keyNone := by rintro rfl; exact absurd hcode (by decide)
  have hsize : s.ksize ≠ 0 := fun h0 => by
    rw [(entries_eq_nil_iff s).2 h0] at hk
    cases hk
  have hfirst : (finalBody s).1 = k := by rw [(finalBody_entries hidx).1, hk]; rfl
  have hsecond : (finalBody s).2 = { s with kbegin := s.kend, ksize := 0 } := by rw [finalBody, if_neg hsize]
  rw [exec_dspTimer_room hring.ringOk h, hfirst, hsecond, if_neg hkey]
  rfl

theorem OnlyMain.step_latchKey {s : State} (hmain : OnlyMain s) (h : RoomInGuard s) {k : Byte} {rest : List MainOp}
    (hm : s.mainOps = .latchKey k :: rest) :
    step s = .next (afterBracket (State.setField { s with mainOps := rest } .keyValue k)) := by
  have hroom : RoomInGuard { s with mainOps := rest } := h
  rw [hmain.step_eq hm]
  exact congrArg toOutcome (latchKey_room k hroom)

/-- Settles O42: the ring is empty (`exec_dspTimer_empty`), or its newest key is taken (`exec_dspTimer_key`) and then
stored (`OnlyMain.step_latchKey`). -/
theorem timerHandlerLatchesTheNewestKey : Obligations.TimerHandlerLatchesTheNewestKey := by
  refine fun s hring hroom hmain => ⟨exec_dspTimer_empty hring hroom, fun k hk => ?_⟩
  have hmain' : OnlyMain { afterBracket s with kbegin := s.kend, ksize := 0, mainOps := .latchKey k :: s.mainOps } := hmain
  refine ⟨_, _, exec_dspTimer_key hring hroom hk, rfl, hmain'.step_latchKey hroom rfl, rfl, ?_, fun x hx => ?_⟩
  · exact (memRead_setField _ .keyValue k 0x01).trans (if_pos rfl)
  · exact (memRead_setField _ .keyValue k x).trans (if_neg hx)

end Sys2Proof.Machine

/-! # The glyph handler (`spec/41_events_and_main_loop.md` R133) -/

namespace Sys2Proof.Machine

/-! ## One turn -/

theorem field_slotFirst (s : State) (n : Fin 8) : s.field (slotFirst n) = s.mem.read (0x57 + 8 * n.val) := by
  rw [State.field, slotFirst_addr]

theorem notYetSent_iff (s : State) (n : Nat) : notYetSent s n = true ↔ (s.mem.read (0x57 + 8 * n)).toNat < 0x20 :=
  decide_eq_true_iff

theorem copyBytes_slot (s : State) (n : Nat) : copyBytes s (0x57 + n * 8) 8 = glyphRows s n := by
  rw [Nat.mul_comm]; rfl

/-- The turn of a slot "not yet sent" marks it and lines up its call (D16). -/
theorem pushSlot_notYetSent {n : Fin 8} {s : State} (h : RoomInGuard s) (hn : notYetSent s n.val = true) :
    pushSlot n s = .ok { s with
      mem := s.mem.write (0x57 + 8 * n.val) (s.mem.read (0x57 + 8 * n.val) ||| s.params.cgramSentMark)
      gie := decide (s.csDepth = 0)
      mainOps := .lcdCall (.writeCgram n.val (glyphRows s n.val)) :: nextSlot n ++ s.mainOps } := by
  rw [notYetSent_iff, ← field_slotFirst] at hn
  rw [pushSlot_fresh h hn, field_slotFirst, slotFirst_addr, copyBytes_slot]

/-- The turn of a slot already sent lines up the next turn only. -/
theorem pushSlot_alreadySent {n : Fin 8} {s : State} (h : RoomInGuard s) (hn : notYetSent s n.val = false) :
    pushSlot n s = .ok { s with gie := decide (s.csDepth = 0), mainOps := nextSlot n ++ s.mainOps } := by
  rw [← Bool.not_eq_true, notYetSent_iff, ← field_slotFirst] at hn
  exact pushSlot_sent h hn

/-- Every turn is as R133 says. -/
theorem pushSlot_glyphTurn (n : Fin 8) {s : State} (h : RoomInGuard s) :
    ∃ t, toOutcome (pushSlot n s) = .next t ∧ GlyphTurn n s t := by
  cases hn : notYetSent s n.val with
  | false => exact ⟨_, congrArg toOutcome (pushSlot_alreadySent h hn), fun h' => by simp [hn] at h', fun _ => rfl⟩
  | true =>
    refine ⟨_, congrArg toOutcome (pushSlot_notYetSent h hn),
      fun _ => ⟨rfl, ?marked, fun a ha => ?kept, fun hmain => ?call⟩, fun h' => by simp [hn] at h'⟩
    case marked =>
      rw [memRead_of_pos (by omega) (by omega), memRead_of_pos (by omega) (by omega), Memory.read_write, if_pos rfl]
      rfl
    case kept => exact memRead_congr rfl ((Memory.read_write ..).trans (if_neg ha))
    case call =>
      refine (OnlyMain.step_lcdCall ?_ rfl).trans rfl
      exact hmain

/-- Settles O46: the handler and `MAIN`'s step with a turn first in line are that turn (`pushSlot_glyphTurn`). -/
theorem glyphSlotIsPushedOnce : Obligations.GlyphSlotIsPushedOnce := by
  refine fun s hroom => ⟨pushSlot_glyphTurn 0 hroom, fun hmain n rest hm => ?_⟩
  have hroom' : RoomInGuard { s with mainOps := rest } := hroom
  rw [hmain.step_eq hm]
  exact pushSlot_glyphTurn n hroom'

/-! ## Turns in a row -/

/-- The calls that push those of the slots `ns` that are not yet sent. -/
def State.glyphCalls (s : State) (ns : List Nat) : List LcdCall :=
  (ns.filter (notYetSent s)).map fun n => .writeCgram n (glyphRows s n)

theorem glyphCalls_cons (s : State) (n : Nat) (ns : List Nat) :
    s.glyphCalls (n :: ns) = s.glyphCalls [n] ++ s.glyphCalls ns := by
  rw [State.glyphCalls, ← List.singleton_append, List.filter_append, List.map_append]; rfl

theorem notYetSent_congr {s t : State} {n : Nat} (h : t.mem.read (0x57 + 8 * n) = s.mem.read (0x57 + 8 * n)) :
    notYetSent t n = notYetSent s n := by rw [notYetSent, notYetSent, h]

/-- The calls look at the rows of their slots only. -/
theorem glyphCalls_congr {s t : State} {ns : List Nat}
    (h : ∀ n ∈ ns, ∀ r < 8, t.mem.read (0x57 + 8 * n + r) = s.mem.read (0x57 + 8 * n + r)) :
    t.glyphCalls ns = s.glyphCalls ns := by
  rw [State.glyphCalls, List.filter_congr fun n hn => notYetSent_congr (h n hn 0 (by decide)), State.glyphCalls]
  refine List.map_congr_left fun n hn => congrArg (LcdCall.writeCgram n) ?_
  exact List.map_congr_left fun r hr => h n (List.mem_of_mem_filter hn) r (List.mem_range.1 hr)

theorem handlerCalls_setCgram (s : State) : handlerCalls s .setCgram = s.glyphCalls (List.range 8) := rfl

/-- The byte at `a` once the slots `ns` have had their turn: marked, if it is the first byte of one of them that was not
yet sent (D16). -/
def State.markedByte (s : State) (ns : List Nat) (a : Nat) : Byte :=
  if ∃ n ∈ ns, notYetSent s n = true ∧ a = 0x57 + 8 * n then s.mem.read a ||| s.params.cgramSentMark else s.mem.read a

theorem markedByte_of_notYetSent {s : State} {ns : List Nat} {n : Nat} (hn : n ∈ ns) (h : notYetSent s n = true) :
    s.markedByte ns (0x57 + 8 * n) = s.mem.read (0x57 + 8 * n) ||| s.params.cgramSentMark := if_pos ⟨n, hn, h, rfl⟩

theorem markedByte_of_alreadySent {s : State} (ns : List Nat) {n : Nat} (h : notYetSent s n = false) :
    s.markedByte ns (0x57 + 8 * n) = s.mem.read (0x57 + 8 * n) := by
  refine if_neg ?_
  rintro ⟨m, -, hm, heq⟩
  obtain rfl : m = n := by omega
  simp [h] at hm

theorem markedByte_of_ne (s : State) {ns : List Nat} {a : Nat} (h : ∀ n ∈ ns, a ≠ 0x57 + 8 * n) :
    s.markedByte ns a = s.mem.read a := by
  refine if_neg ?_
  rintro ⟨n, hn, -, heq⟩
  exact h n hn heq

theorem markedByte_congr {s t : State} {ns : List Nat} {a : Nat}
    (hmark : t.params.cgramSentMark = s.params.cgramSentMark) (hbyte : t.mem.read a = s.mem.read a)
    (hfirst : ∀ n ∈ ns, t.mem.read (0x57 + 8 * n) = s.mem.read (0x57 + 8 * n)) :
    t.markedByte ns a = s.markedByte ns a := by
  have hiff : (∃ n ∈ ns, notYetSent t n = true ∧ a = 0x57 + 8 * n) ↔
      ∃ n ∈ ns, notYetSent s n = true ∧ a = 0x57 + 8 * n :=
    exists_congr fun n => and_congr_right fun hn => by rw [notYetSent_congr (hfirst n hn)]
  simp only [State.markedByte, hbyte, hmark, hiff]

/-- From `s` to `t` the slots `ns` have had their turns and the calls of these have been made. -/
structure GlyphsPushed (ns : List Nat) (s t : State) : Prop where
  frame : t = { s with mem := t.mem, gie := true, mainOps := t.mainOps, lcd := s.lcd ++ s.glyphCalls ns }
  byte (a : Nat) : t.mem.read a = s.markedByte ns a

section
variable {n : Nat} {s t : State} (h : GlyphsPushed [n] s t)
include h

/-- The turn of a slot writes no byte of another. -/
theorem GlyphsPushed.read_other_slot {m r : Nat} (hm : m ≠ n) (hr : r < 8) :
    t.mem.read (0x57 + 8 * m + r) = s.mem.read (0x57 + 8 * m + r) := by
  refine (h.byte _).trans (markedByte_of_ne s fun k hk => ?_)
  rw [List.mem_singleton.1 hk]
  omega

theorem GlyphsPushed.glyphCalls_others {ns : List Nat} (hn : n ∉ ns) : t.glyphCalls ns = s.glyphCalls ns :=
  glyphCalls_congr fun _ hm _ hr => h.read_other_slot (ne_of_mem_of_not_mem hm hn) hr

theorem GlyphsPushed.markedByte_others {ns : List Nat} (hn : n ∉ ns) (a : Nat) :
    t.markedByte ns a = s.markedByte (n :: ns) a := by
  have hmark : t.params.cgramSentMark = s.params.cgramSentMark := by rw [h.frame]
  by_cases ha : a = 0x57 + 8 * n
  · have hne : ∀ m ∈ ns, a ≠ 0x57 + 8 * m := fun m hm => by
      have := ne_of_mem_of_not_mem hm hn
      omega
    rw [markedByte_of_ne t hne, h.byte, ha]
    cases hs : notYetSent s n with
    | true => rw [markedByte_of_notYetSent List.mem_cons_self hs, markedByte_of_notYetSent List.mem_cons_self hs]
    | false => rw [markedByte_of_alreadySent _ hs, markedByte_of_alreadySent _ hs]
  · have hread : t.mem.read a = s.mem.read a :=
      (h.byte a).trans (markedByte_of_ne s fun m hm => by rwa [List.mem_singleton.1 hm])
    have hfirst (m : Nat) (hm : m ∈ ns) : t.mem.read (0x57 + 8 * m) = s.mem.read (0x57 + 8 * m) :=
      h.read_other_slot (ne_of_mem_of_not_mem hm hn) (r := 0) (by decide)
    rw [markedByte_congr hmark hread hfirst]
    simp only [State.markedByte, List.exists_mem_cons_iff, ha, and_false, false_or]

/-- A turn and then the turns of other slots. -/
theorem GlyphsPushed.cons {u : State} {ns : List Nat} (h' : GlyphsPushed ns t u) (hn : n ∉ ns) :
    GlyphsPushed (n :: ns) s u where
  frame := by
    calc u = { t with mem := u.mem, gie := true, mainOps := u.mainOps, lcd := t.lcd ++ t.glyphCalls ns } := h'.frame
      _ = { t with mem := u.mem, gie := true, mainOps := u.mainOps, lcd := t.lcd ++ s.glyphCalls ns } := by
        rw [h.glyphCalls_others hn]
      _ = _ := by rw [glyphCalls_cons, ← List.append_assoc, h.frame]
  byte a := (h'.byte a).trans (h.markedByte_others hn a)

end

/-! ## The whole handler -/

theorem glyphCalls_of_notYetSent {s : State} {n : Nat} (hn : notYetSent s n = true) :
    s.glyphCalls [n] = [.writeCgram n (glyphRows s n)] := by
  rw [State.glyphCalls, List.filter_cons_of_pos hn]; rfl

theorem glyphCalls_of_alreadySent {s : State} {n : Nat} (hn : notYetSent s n = false) : s.glyphCalls [n] = [] := by
  rw [State.glyphCalls, List.filter_cons_of_neg (by simp [hn])]; rfl

/-- The state after the turn of a slot that was not yet sent, its call made, and `ops` left to do. -/
def State.pushGlyph (s : State) (n : Nat) (ops : List MainOp) : State :=
  { s with
    mem := s.mem.write (0x57 + 8 * n) (s.mem.read (0x57 + 8 * n) ||| s.params.cgramSentMark)
    gie := decide (s.csDepth = 0)
    mainOps := ops
    lcd := s.lcd ++ [.writeCgram n (glyphRows s n)] }

theorem glyphsPushed_pushGlyph {s : State} (hd : s.csDepth = 0) {n : Nat} (hn : notYetSent s n = true)
    (ops : List MainOp) : GlyphsPushed [n] s (s.pushGlyph n ops) where
  frame := by rw [glyphCalls_of_notYetSent hn, ← decide_eq_true hd]; rfl
  byte a := by
    by_cases ha : a = 0x57 + 8 * n
    · rw [ha, markedByte_of_notYetSent (List.mem_singleton_self n) hn]
      exact (Memory.read_write ..).trans (if_pos rfl)
    · rw [markedByte_of_ne s fun m hm => by rwa [List.mem_singleton.1 hm]]
      exact (Memory.read_write ..).trans (if_neg ha)

theorem glyphsPushed_alreadySent {s : State} (hd : s.csDepth = 0) {n : Nat} (hn : notYetSent s n = false)
    (ops : List MainOp) : GlyphsPushed [n] s { s with gie := decide (s.csDepth = 0), mainOps := ops } where
  frame := by rw [glyphCalls_of_alreadySent hn, List.append_nil, ← decide_eq_true hd]
  byte a := by
    by_cases ha : a = 0x57 + 8 * n
    · rw [ha, markedByte_of_alreadySent _ hn]
    · rw [markedByte_of_ne s fun m hm => by rwa [List.mem_singleton.1 hm]]

/-- `MAIN` alone: the turn of a slot, and the step of its call if there is one. -/
theorem OnlyMain.run_turn {s : State} (hmain : OnlyMain s) (hd : s.csDepth = 0) {n : Fin 8} {rest : List MainOp}
    (hstep : step s = toOutcome (pushSlot n { s with mainOps := rest })) :
    ∃ t : State, Host.Core.run core (1 + (s.glyphCalls [n.val]).length) s = .next t ∧
      t.mainOps = nextSlot n ++ rest ∧ GlyphsPushed [n.val] s t := by
  have hroom : RoomInGuard { s with mainOps := rest } := roomInGuard_of_depth_zero hd
  cases hn : notYetSent s n.val with
  | false =>
    rw [pushSlot_alreadySent hroom hn] at hstep
    rw [glyphCalls_of_alreadySent hn]
    exact ⟨_, run_one hstep, rfl, glyphsPushed_alreadySent hd hn _⟩
  | true =>
    rw [pushSlot_notYetSent hroom hn] at hstep
    rw [glyphCalls_of_notYetSent hn]
    refine ⟨s.pushGlyph n.val (nextSlot n ++ rest), ?_, rfl, glyphsPushed_pushGlyph hd hn _⟩
    refine run_trans (run_one hstep) (run_one ((OnlyMain.step_lcdCall ?_ rfl).trans rfl))
    exact hmain

section
variable {ns : List Nat} {s t : State} (h : GlyphsPushed ns s t)
include h

theorem GlyphsPushed.onlyMain (hmain : OnlyMain s) : OnlyMain t := by rw [h.frame]; exact hmain

theorem GlyphsPushed.csDepth : t.csDepth = s.csDepth := by rw [h.frame]

end

/-- `MAIN` alone, no bracket open: the turn of slot `i` and those of the `k` slots after it. -/
theorem OnlyMain.run_turns {k i : Nat} (hi : i < 8) (hk : i + k = 7) {s : State} (hmain : OnlyMain s)
    (hd : s.csDepth = 0) {rest : List MainOp}
    (hstep : step s = toOutcome (pushSlot ⟨i, hi⟩ { s with mainOps := rest })) :
    ∃ t : State, Host.Core.run core (k + 1 + (s.glyphCalls (List.range' i (k + 1))).length) s = .next t ∧
      t.mainOps = rest ∧ GlyphsPushed (List.range' i (k + 1)) s t := by
  induction k generalizing i s with
  | zero =>
    obtain rfl : i = 7 := hk
    exact hmain.run_turn hd (n := ⟨7, hi⟩) hstep
  | succ k ih =>
    obtain ⟨t, hrun, hops, hturn⟩ : ∃ t : State,
        Host.Core.run core (1 + (s.glyphCalls [i]).length) s = .next t ∧ t.mainOps = nextSlot ⟨i, hi⟩ ++ rest ∧
          GlyphsPushed [i] s t := hmain.run_turn hd (n := ⟨i, hi⟩) hstep
    have hi' : i + 1 < 8 := by omega
    rw [nextSlot, dif_pos hi'] at hops
    have hmain' := hturn.onlyMain hmain
    obtain ⟨u, hrun', hops', hturns⟩ := ih hi' (by omega) hmain' (hturn.csDepth.trans hd) (hmain'.step_eq hops)
    have hother : i ∉ List.range' (i + 1) (k + 1) := fun h =>
      absurd (List.left_le_of_mem_range' h) (Nat.not_succ_le_self i)
    refine ⟨u, ?_, hops', hturn.cons hturns hother⟩
    have hlen : k + 1 + 1 + (s.glyphCalls (List.range' i (k + 1 + 1))).length =
        1 + (s.glyphCalls [i]).length + (k + 1 + (t.glyphCalls (List.range' (i + 1) (k + 1))).length) := by
      rw [hturn.glyphCalls_others hother, List.range'_succ, glyphCalls_cons, List.length_append]
      omega
    rw [hlen]
    exact run_trans hrun hrun'

/-- `MAIN` alone, no bracket open: the handler is the turn of slot 0, and the others follow. -/
theorem OnlyMain.run_setCgram {s : State} (hmain : OnlyMain s) (hd : s.csDepth = 0) {rest : List MainOp}
    (hm : s.mainOps = .handler .setCgram :: rest) :
    ∃ t : State, Host.Core.run core (8 + (s.glyphCalls (List.range 8)).length) s = .next t ∧ t.mainOps = rest ∧
      GlyphsPushed (List.range 8) s t :=
  hmain.run_turns (k := 7) (i := 0) (by decide) rfl hd (hmain.step_eq hm)

/-- Settles O47: the run of the handler (`OnlyMain.run_setCgram`), and what it leaves, read through the raw read. -/
theorem setCgramPushesEveryUnsentSlot : Obligations.SetCgramPushesEveryUnsentSlot := by
  intro s rest hmain hd hm
  obtain ⟨t, hrun, hops, hglyphs⟩ := hmain.run_setCgram hd hm
  rw [State.glyphCalls, List.length_map] at hrun
  have hframe := hglyphs.frame
  rw [hops] at hframe
  refine ⟨t, hrun, hframe, fun n hn h => ?marked, fun n hn h => ?sent, fun a ha => ?kept⟩
  case marked =>
    rw [memRead_of_pos (by omega) (by omega), memRead_of_pos (by omega) (by omega), hglyphs.byte,
      markedByte_of_notYetSent (List.mem_range.2 hn) h]
    rfl
  case sent =>
    exact memRead_congr_pos (by omega) ((hglyphs.byte _).trans (markedByte_of_alreadySent _ h))
  case kept =>
    have hstatus : t.status = s.status := by rw [hglyphs.frame]
    exact memRead_congr hstatus
      ((hglyphs.byte a).trans (markedByte_of_ne s fun n hn => ha n (List.mem_range.1 hn)))

end Sys2Proof.Machine

/-! # The main loop goes idle (`spec/41_events_and_main_loop.md` R122 to R134)

With `MAIN` alone moving each handler runs to its end, and what the handlers of a list of flags leave is said once
(`Handled`), handler by handler. -/

namespace Sys2Proof.Machine

/-! ## One handler, run to its end -/

/-- The key in `keyValue` once the timer's handler has run: the newest of the ring, or the old one (R126; D22). -/
def State.newestKey (s : State) : Byte := (entries s).getLast?.getD (s.mem.read 0x01)

/-- From `s` to `t` the timer's handler has run. -/
structure KeyTaken (s t : State) : Prop where
  frame : t = { s with gie := true, mem := t.mem, mainOps := t.mainOps, kbegin := t.kbegin, ksize := t.ksize }
  live : entries t = []
  byte (a : Nat) : t.mem.read a = if a = 0x01 then s.newestKey else s.mem.read a

theorem OnlyMain.run_timer {s : State} (hmain : OnlyMain s) (hd : s.csDepth = 0) (hring : RingSound s)
    {rest : List MainOp} (hm : s.mainOps = .handler .timer :: rest) :
    ∃ (n : Nat) (t : State), n ≤ 2 ∧ Host.Core.run core n s = .next t ∧ t.mainOps = rest ∧ KeyTaken s t := by
  have hstep : step s = exec .dspTimer { s with mainOps := rest } := hmain.step_eq hm
  have hring' : RingSound { s with mainOps := rest } := hring
  have hroom : RoomInGuard { s with mainOps := rest } := roomInGuard_of_depth_zero hd
  have hgie : decide (s.csDepth = 0) = true := decide_eq_true hd
  cases hk : (entries s).getLast? with
  | none =>
    have hempty : entries s = [] := List.getLast?_eq_none_iff.1 hk
    have hkey : s.newestKey = s.mem.read 0x01 := by rw [State.newestKey, hk]; rfl
    rw [exec_dspTimer_empty hring' hroom hempty] at hstep
    refine ⟨1, _, by decide, run_one hstep, rfl, ⟨?_, hempty, fun a => ?_⟩⟩
    · rw [← hgie]; rfl
    · rw [hkey]; split
      · next ha => rw [ha]; rfl
      · rfl
  | some k =>
    have hkey : s.newestKey = k := by rw [State.newestKey, hk]; rfl
    rw [exec_dspTimer_key hring' hroom hk] at hstep
    have hmain' : OnlyMain { afterBracket s with kbegin := s.kend, ksize := 0, mainOps := .latchKey k :: rest } := hmain
    refine ⟨2, _, le_rfl, run_trans (run_one hstep) (run_one (hmain'.step_latchKey hroom rfl)), rfl,
      ⟨?_, rfl, fun a => ?_⟩⟩
    · rw [← hgie]; rfl
    · rw [hkey]; exact Memory.read_write ..

/-- `MAIN` alone, no bracket open: a handler that makes calls, from its bracket to its last call. -/
theorem OnlyMain.run_callsHandler {s : State} (hmain : OnlyMain s) (hd : s.csDepth = 0) {f : EventFlag}
    (hf : MakesCalls f) {rest : List MainOp} (hm : s.mainOps = .handler f :: rest) :
    Host.Core.run core (1 + (handlerCalls s f).length) s = .next ({ s with
      gie := true, mainOps := rest, lcd := s.lcd ++ handlerCalls s f
      panelPin := (s.pinsAfter [f]).1, backlightPin := (s.pinsAfter [f]).2 } : State) := by
  have hroom : RoomInGuard { s with mainOps := rest } := roomInGuard_of_depth_zero hd
  obtain ⟨t, hexec, -, hcalls⟩ := handlerMakes_handlerCalls hf hroom
  have hstep : step s = .next t := (hmain.step_eq hm).trans hexec
  rw [← decide_eq_true hd]
  exact run_trans (run_one hstep) (hcalls hmain)

/-! ## The handlers of a list of flags -/

/-- The slots that have their turns if the flags `fs` are handled. -/
def slotsHandled (fs : List EventFlag) : List Nat := if .setCgram ∈ fs then List.range 8 else []

theorem lt_of_mem_slotsHandled {fs : List EventFlag} {n : Nat} (h : n ∈ slotsHandled fs) : n < 8 := by
  unfold slotsHandled at h
  split at h
  · exact List.mem_range.1 h
  · cases h

theorem slotsHandled_append {fs : List EventFlag} {f : EventFlag} (hf : f ≠ .setCgram) :
    slotsHandled (fs ++ [f]) = slotsHandled fs := by
  simp only [slotsHandled, List.mem_append, List.mem_singleton, hf.symm, or_false]

/-- The byte at `a` once the flags `fs` have been handled. -/
def State.handledByte (s : State) (fs : List EventFlag) (a : Nat) : Byte :=
  if a = 0x01 then if .timer ∈ fs then s.newestKey else s.mem.read 0x01 else s.markedByte (slotsHandled fs) a

theorem handledByte_of_ne {s : State} {fs : List EventFlag} {a : Nat} (ha : a ≠ 0x01) :
    s.handledByte fs a = s.markedByte (slotsHandled fs) a := if_neg ha

/-- The state but for what the handlers write. -/
def State.unhandled (s : State) : State :=
  { s with
    gie := true, mem := [], mainOps := [], kbegin := 0, ksize := 0, panelPin := false, backlightPin := false, lcd := [] }

/-- From `s` to `t` the handlers of the flags `fs` have run, one after the other and each to its end. -/
structure Handled (fs : List EventFlag) (s t : State) : Prop where
  rest : t.unhandled = s.unhandled
  gie : t.gie = true
  lcd : t.lcd = s.lcd ++ fs.flatMap (handlerCalls s)
  pins : (t.panelPin, t.backlightPin) = s.pinsAfter fs
  live : entries t = if .timer ∈ fs then [] else entries s
  byte (a : Nat) : t.mem.read a = s.handledByte fs a

theorem Handled.nil {s : State} (hgie : s.gie = true) : Handled [] s s where
  rest := rfl
  gie := hgie
  lcd := by rw [List.flatMap_nil, List.append_nil]
  pins := rfl
  live := rfl
  byte a := by
    by_cases ha : a = 0x01
    · rw [ha]; rfl
    · rw [handledByte_of_ne ha]; exact (markedByte_of_ne s fun _ hn => absurd hn List.not_mem_nil).symm

section
variable {fs : List EventFlag} {s t : State} (h : Handled fs s t)
include h

theorem Handled.onlyMain (hmain : OnlyMain s) : OnlyMain t := by
  change OnlyMain t.unhandled
  rw [h.rest]
  exact hmain

theorem Handled.csDepth : t.csDepth = s.csDepth := (congrArg State.csDepth h.rest :)

theorem Handled.cgramSentMark : t.params.cgramSentMark = s.params.cgramSentMark :=
  (congrArg (fun u => u.params.cgramSentMark) h.rest :)

/-- The handlers write nothing from 0x02 on but the first bytes of glyph slots. -/
theorem Handled.read_settings {a : Nat} (ha : 2 ≤ a) (hslot : ∀ n, n < 8 → a ≠ 0x57 + 8 * n) :
    t.mem.read a = s.mem.read a := by
  rw [h.byte, handledByte_of_ne (by omega), markedByte_of_ne s fun n hn => hslot n (lt_of_mem_slotsHandled hn)]

/-- Without `SET_CGRAM` they do not write these either. -/
theorem Handled.read_unmarked (hf : .setCgram ∉ fs) {a : Nat} (ha : a ≠ 0x01) : t.mem.read a = s.mem.read a := by
  rw [h.byte, handledByte_of_ne ha, slotsHandled, if_neg hf, markedByte_of_ne s fun _ hn => absurd hn List.not_mem_nil]

/-- What the handlers that have run leave, another handler copies as it stood. -/
theorem Handled.handlerCalls_eq {f : EventFlag} (hf : f ∉ fs) : handlerCalls t f = handlerCalls s f := by
  have hread (a : Nat) (h2 : 2 ≤ a) (hregion : a < 0x57 ∨ 0x97 ≤ a) : t.mem.read a = s.mem.read a :=
    h.read_settings h2 fun _ _ => by omega
  have hline (a : Nat) (ha : a ≤ 0x2F) (h2 : 2 ≤ a) : (List.range 16).map (fun j => t.mem.read (a + j)) =
      (List.range 16).map fun j => s.mem.read (a + j) :=
    List.map_congr_left fun j hj => hread (a + j) (by omega) (by have := List.mem_range.1 hj; omega)
  have hpower := hread 0x02 (by decide) (by decide)
  have hrow := hread 0x05 (by decide) (by decide)
  have hcol := hread 0x06 (by decide) (by decide)
  cases f with
  | timer => rfl
  | powerContrast =>
    have hpanel : t.panelPin = s.panelPin := congrArg Prod.fst (h.pins.trans (if_neg hf))
    have hcontrast := hread 0x03 (by decide) (by decide)
    simp only [handlerCalls, hpower, hcontrast, hpanel]
  | cursorSet =>
    have htype := hread 0x04 (by decide) (by decide)
    simp only [handlerCalls, hpower, htype]
  | cursorDraw => simp only [handlerCalls, hrow, hcol]
  | drawLine0 => simp only [handlerCalls, hrow, hcol, hline 0x07 (by decide) (by decide)]
  | drawLine1 => simp only [handlerCalls, hrow, hcol, hline 0x2F (by decide) (by decide)]
  | setCgram =>
    rw [handlerCalls_setCgram, handlerCalls_setCgram]
    exact glyphCalls_congr fun _ _ _ _ => h.read_unmarked hf (by omega)
  | drawIcon =>
    exact List.map_congr_left fun i _ => congrArg (LcdCall.writeIcon i) (hread _ (by omega) (.inr (by omega)))

/-! ## One more handler -/

/-- The next handler's calls go behind those made. -/
theorem Handled.append_calls {f : EventFlag} (hf : f ∉ fs) :
    t.lcd ++ handlerCalls t f = s.lcd ++ (fs ++ [f]).flatMap (handlerCalls s) := by
  rw [h.handlerCalls_eq hf, h.lcd, List.flatMap_append, List.flatMap_singleton, List.append_assoc]

/-- Handlers after these drive the pins last. -/
theorem Handled.append_pins (gs : List EventFlag) : t.pinsAfter gs = s.pinsAfter (fs ++ gs) := by
  have hpower : t.mem.read 0x02 = s.mem.read 0x02 := h.read_settings (by decide) fun _ _ => by omega
  by_cases hg : .powerContrast ∈ gs
  · simp only [State.pinsAfter, hg, List.mem_append, or_true, if_true, hpower]
  · simp only [State.pinsAfter, hg, List.mem_append, or_false, if_false, h.pins]

/-- A handler that leaves the ring, after others. -/
theorem Handled.append_live {f : EventFlag} (hf : f ≠ .timer) :
    entries t = if .timer ∈ fs ++ [f] then [] else entries s := by
  simp only [h.live, List.mem_append, List.mem_singleton, hf.symm, or_false]

theorem Handled.newestKey (hf : .timer ∉ fs) : t.newestKey = s.newestKey := by
  have hbyte : t.mem.read 0x01 = s.mem.read 0x01 := (h.byte 0x01).trans (if_neg hf)
  rw [State.newestKey, State.newestKey, h.live, if_neg hf, hbyte]

/-- The timer's handler after others. -/
theorem Handled.timer {u : State} (hf : .timer ∉ fs) (hkey : KeyTaken t u) : Handled (fs ++ [.timer]) s u where
  rest := (congrArg State.unhandled hkey.frame :).trans h.rest
  gie := (congrArg State.gie hkey.frame :)
  lcd := ((congrArg State.lcd hkey.frame :).trans (List.append_nil t.lcd).symm).trans (h.append_calls hf)
  pins := (congrArg (fun v => (v.panelPin, v.backlightPin)) hkey.frame :).trans (h.append_pins [.timer])
  live := by rw [hkey.live, if_pos (List.mem_append_right _ (List.mem_singleton_self _))]
  byte a := by
    rw [hkey.byte]
    by_cases ha : a = 0x01
    · rw [if_pos ha, h.newestKey hf, State.handledByte, if_pos ha,
        if_pos (List.mem_append_right _ (List.mem_singleton_self _))]
    · rw [if_neg ha, h.byte, handledByte_of_ne ha, handledByte_of_ne ha, slotsHandled_append (f := .timer) nofun]

/-- The glyph handler after others. -/
theorem Handled.setCgram {u : State} (hf : .setCgram ∉ fs) (hglyphs : GlyphsPushed (List.range 8) t u) :
    Handled (fs ++ [.setCgram]) s u where
  rest := (congrArg State.unhandled hglyphs.frame :).trans h.rest
  gie := (congrArg State.gie hglyphs.frame :)
  lcd := by
    rw [← h.append_calls hf, handlerCalls_setCgram]
    exact congrArg State.lcd hglyphs.frame
  pins := (congrArg (fun v => (v.panelPin, v.backlightPin)) hglyphs.frame :).trans (h.append_pins [.setCgram])
  live := (congrArg entries hglyphs.frame :).trans (h.append_live nofun)
  byte a := by
    have hslots : slotsHandled (fs ++ [.setCgram]) = List.range 8 :=
      if_pos (List.mem_append_right _ (List.mem_singleton_self _))
    rw [hglyphs.byte]
    by_cases ha : a = 0x01
    · rw [markedByte_of_ne t fun n _ => by omega, h.byte, State.handledByte, State.handledByte, if_pos ha, if_pos ha]
      simp only [List.mem_append, List.mem_singleton, reduceCtorEq, or_false]
    · rw [handledByte_of_ne ha, hslots]
      exact markedByte_congr h.cgramSentMark (h.read_unmarked hf ha) fun n _ => h.read_unmarked hf (by omega)

/-- A handler that makes calls, after others. -/
theorem Handled.calls {f : EventFlag} (hf : f ∉ fs) (hcalls : MakesCalls f) (ops : List MainOp) :
    Handled (fs ++ [f]) s { t with
      gie := true, mainOps := ops, lcd := t.lcd ++ handlerCalls t f
      panelPin := (t.pinsAfter [f]).1, backlightPin := (t.pinsAfter [f]).2 } where
  rest := h.rest
  gie := rfl
  lcd := h.append_calls hf
  pins := h.append_pins [f]
  live := h.append_live hcalls.1
  byte a := by
    refine (h.byte a).trans ?_
    simp only [State.handledByte, slotsHandled_append hcalls.2, List.mem_append, List.mem_singleton, hcalls.1.symm,
      or_false]

end

/-! ## The iteration -/

/-- The most steps the handler of a flag takes: its brackets, and a step for each call. -/
def handlerSteps : EventFlag → Nat
  | .timer => 2
  | .powerContrast => 5
  | .cursorSet => 2
  | .cursorDraw => 2
  | .drawLine0 => 4
  | .drawLine1 => 4
  | .setCgram => 16
  | .drawIcon => 17

theorem length_handlerCalls {f : EventFlag} (hf : MakesCalls f) (s : State) :
    1 + (handlerCalls s f).length ≤ handlerSteps f := by
  cases f with
  | timer => exact absurd rfl hf.1
  | setCgram => exact absurd rfl hf.2
  | powerContrast =>
    simp only [handlerCalls, handlerSteps]
    split <;> simp
  | drawIcon => simp only [handlerCalls, handlerSteps, List.length_map, List.length_range, le_refl]
  | _ => exact le_rfl

theorem length_glyphCalls (s : State) : 8 + (s.glyphCalls (List.range 8)).length ≤ handlerSteps .setCgram := by
  have hle := List.length_filter_le (notYetSent s) (List.range 8)
  rw [List.length_range] at hle
  rw [State.glyphCalls, List.length_map, handlerSteps]
  omega

/-- `MAIN` alone, no bracket open: the first handler in line, after those of `fs`. -/
theorem Handled.run_next {fs : List EventFlag} {s t : State} (h : Handled fs s t) (hmain : OnlyMain t)
    (hd : t.csDepth = 0) (hring : RingSound t) {f : EventFlag} (hf : f ∉ fs) {rest : List MainOp}
    (hm : t.mainOps = .handler f :: rest) :
    ∃ (n : Nat) (u : State), n ≤ handlerSteps f ∧ Host.Core.run core n t = .next u ∧ u.mainOps = rest ∧
      Handled (fs ++ [f]) s u := by
  by_cases ht : f = .timer
  · subst ht
    obtain ⟨n, u, hn, hrun, hops, hkey⟩ := hmain.run_timer hd hring hm
    exact ⟨n, u, hn, hrun, hops, h.timer hf hkey⟩
  by_cases hg : f = .setCgram
  · subst hg
    obtain ⟨u, hrun, hops, hglyphs⟩ := hmain.run_setCgram hd hm
    exact ⟨_, u, length_glyphCalls t, hrun, hops, h.setCgram hf hglyphs⟩
  · have hcalls : MakesCalls f := ⟨ht, hg⟩
    exact ⟨_, _, length_handlerCalls hcalls t, hmain.run_callsHandler hd hcalls hm, rfl, h.calls hf hcalls rest⟩

/-- `MAIN` alone, no bracket open: all handlers in line, after those of `fs`. -/
theorem Handled.run_all {s : State} (hmain : OnlyMain s) (hd : s.csDepth = 0) {todo fs : List EventFlag} {t : State}
    (h : Handled fs s t) (hring : RingSound t) (hnodup : (fs ++ todo).Nodup) (hm : t.mainOps = todo.map .handler) :
    ∃ (n : Nat) (u : State), n ≤ (todo.map handlerSteps).sum ∧ Host.Core.run core n t = .next u ∧ u.mainOps = [] ∧
      Handled (fs ++ todo) s u := by
  induction todo generalizing fs t with
  | nil => exact ⟨0, t, le_rfl, rfl, hm, by rwa [List.append_nil]⟩
  | cons f todo ih =>
    have hf : f ∉ fs := fun hmem => List.disjoint_of_nodup_append hnodup hmem List.mem_cons_self
    rw [List.append_cons] at hnodup ⊢
    obtain ⟨n, u, hn, hrun, hops, hnext⟩ := h.run_next (h.onlyMain hmain) (h.csDepth.trans hd) hring hf hm
    obtain ⟨n', v, hn', hrun', hops', hall⟩ := ih hnext (run_keeps stepKeepsTheRingSound hring hrun) hnodup hops
    rw [List.map_cons, List.sum_cons]
    exact ⟨n + n', v, Nat.add_le_add hn hn', run_trans hrun hrun', hops', hall⟩

/-- The state after a poll at the top of the loop, no bracket open. -/
def State.polled (s : State) : State :=
  { s with
    evMask := 0#8, status := if s.evMask = 0#8 then .normal else .processing, gie := true, result := .mask s.evMask
    mainOps := (pendingInOrder s).map .handler }

theorem OnlyMain.step_poll {s : State} (hmain : OnlyMain s) (hd : s.csDepth = 0) (hm : s.mainOps = []) :
    step s = .next s.polled := by
  rw [hmain.step_top hm, exec_mlPoll_room (roomInGuard_of_depth_zero hd), hm, List.append_nil, State.polled,
    ← decide_eq_true hd]
  rfl

theorem nodup_pendingInOrder (s : State) : (pendingInOrder s).Nodup := List.Nodup.filter _ (by decide)

theorem steps_pendingInOrder (s : State) : ((pendingInOrder s).map handlerSteps).sum ≤ 52 :=
  (List.filter_sublist.map handlerSteps).sum_le_sum fun _ _ => Nat.zero_le _

/-- The state once the poll after the iteration has found no flag. -/
def State.idle (s : State) : State :=
  { s with status := .normal, evMask := 0#8, gie := true, result := .mask 0#8, mainOps := [] }

theorem polled_eq_idle {s : State} (hmask : s.evMask = 0#8) : s.polled = s.idle := by
  simp only [State.polled, State.idle, pendingInOrder, hmask]
  rfl

/-- `MAIN` alone, no bracket open, at the top of its loop: an iteration, and the poll after it. -/
theorem OnlyMain.run_iteration {s : State} (hmain : OnlyMain s) (hring : RingSound s) (hd : s.csDepth = 0)
    (hm : s.mainOps = []) :
    ∃ (n : Nat) (u : State), n ≤ 54 ∧ Host.Core.run core n s = .next u.idle ∧
      Handled (pendingInOrder s) s.polled u := by
  have hmain' : OnlyMain s.polled := hmain
  have hring' : RingSound s.polled := hring
  obtain ⟨n, u, hn, hrun, hops, hall⟩ :=
    Handled.run_all hmain' hd (Handled.nil rfl) hring' (nodup_pendingInOrder s) rfl
  have hmask : u.evMask = 0#8 := (congrArg State.evMask hall.rest :)
  have hidle : step u = .next u.idle :=
    polled_eq_idle hmask ▸ (hall.onlyMain hmain').step_poll (hall.csDepth.trans hd) hops
  have hsteps := hn.trans (steps_pendingInOrder s)
  exact ⟨1 + n + 1, u, by omega, run_trans (run_trans (run_one (hmain.step_poll hd hm)) hrun) (run_one hidle), hall⟩

/-- Settles O41: the run is `OnlyMain.run_iteration`, and what it leaves is read off `Handled`. -/
theorem mainLoopGoesIdle : Obligations.MainLoopGoesIdle := by
  intro s hmain hring hd hm
  obtain ⟨n, u, hn, hrun, hall⟩ := hmain.run_iteration hring hd hm
  have hread {a : Nat} (h2 : 2 ≤ a) (hbyte : u.mem.read a = s.mem.read a) : memRead u.idle a = memRead s a :=
    memRead_congr_pos (by omega) hbyte
  refine ⟨n, u.idle, hn, hrun, ?frame, fun hp => ?driven, fun hp => ?pinsStay, fun ht => ?taken, fun ht => ?keyStays,
    fun k hk hg hsent => ?marked, fun k hk hg => ?unmarked, fun a h2 hslot => hread h2 (hall.read_settings h2 hslot)⟩
  case frame =>
    calc u.idle = { u.unhandled with
          status := .normal, evMask := 0#8, gie := true, result := .mask 0#8, mainOps := [], lcd := u.lcd, mem := u.mem
          kbegin := u.kbegin, ksize := u.ksize, panelPin := u.panelPin, backlightPin := u.backlightPin } := rfl
      _ = _ := by rw [hall.rest, hall.lcd]; rfl
  case driven => exact Prod.mk.inj (hall.pins.trans (if_pos hp))
  case pinsStay => exact Prod.mk.inj (hall.pins.trans (if_neg hp))
  case taken =>
    refine ⟨hall.live.trans (if_pos ht), (memRead_of_pos (by decide) (by decide)).trans (congrArg some ?_)⟩
    exact (hall.byte 0x01).trans (if_pos ht)
  case keyStays =>
    exact ⟨hall.live.trans (if_neg ht), memRead_congr_pos (by decide) ((hall.byte 0x01).trans (if_neg ht))⟩
  case marked =>
    have hslots : slotsHandled (pendingInOrder s) = List.range 8 := if_pos hg
    rw [memRead_of_pos (by omega) (by omega), memRead_of_pos (by omega) (by omega)]
    refine congrArg some ((hall.byte _).trans ?_)
    rw [handledByte_of_ne (by omega), hslots]
    exact markedByte_of_notYetSent (s := s.polled) (List.mem_range.2 hk) hsent
  case unmarked =>
    refine hread (by omega) ?_
    rcases hg with hg | hsent
    · exact hall.read_unmarked hg (by omega)
    · refine (hall.byte _).trans ?_
      rw [handledByte_of_ne (by omega)]
      exact markedByte_of_alreadySent (s := s.polled) _ hsent

end Sys2Proof.Machine

/-! # What happens between interrupts, and while a handler waits (`spec/41_events_and_main_loop.md` R135,
`spec/60_exceptions.md` R192) -/

namespace Sys2Proof.Machine

/-! ## The register map between interrupts -/

/-- From `s` to `t` no byte from 0x02 on has changed but the first bytes of the glyph slots. -/
def SettingsKept (s t : State) : Prop :=
  ∀ a, 2 ≤ a → (∀ n, n < 8 → a ≠ 0x57 + 8 * n) → t.mem.read a = s.mem.read a

theorem SettingsKept.of_mem {s t : State} (h : t.mem = s.mem) : SettingsKept s t := fun _ _ _ => by rw [h]

theorem pushSlot_settingsKept {n : Fin 8} {s t : State} (h : pushSlot n s = .ok t) : SettingsKept s t := by
  obtain ⟨-, hm | hm⟩ := pushSlot_next h
  · exact .of_mem hm
  · intro a _ hslot
    rw [hm, slotFirst_addr, Memory.read_write, if_neg (hslot n.val n.isLt)]

theorem latch_settingsKept (k : Byte) (s : State) : SettingsKept s (s.setField .keyValue k) := by
  intro a h2 _
  have ha : a ≠ Field.keyValue.addr := by simp only [Field.addr]; omega
  rw [setField_mem, Memory.read_write, if_neg ha]

theorem kpRead_mem (s : State) : (kpRead s).2.mem = s.mem := by rw [kpRead_frame]

theorem frontBody_mem (s : State) : (frontBody s).2.mem = s.mem := by rw [frontBody_frame]

theorem finalBody_mem (s : State) : (finalBody s).2.mem = s.mem := by rw [finalBody_frame]

theorem handler_settingsKept {f : EventFlag} {s t : State} (h : exec f.handler s = .next t) : SettingsKept s t := by
  cases f with
  | timer =>
    obtain ⟨-, rfl⟩ := dspTimer_next h
    exact .of_mem (finalBody_mem s)
  | setCgram => exact pushSlot_settingsKept (toOutcome_next (x := pushSlot 0 s) h)
  | powerContrast | cursorSet | cursorDraw | drawLine0 | drawLine1 | drawIcon =>
    obtain ⟨cs, rfl⟩ := display_next (by simp [EventFlag.handler]) h
    exact .of_mem rfl

/-- Another caller's operation does not touch the register map. -/
theorem call_mem {c : MainCall} {s t : State} (h : exec c.instr s = .next t) : t.mem = s.mem := by
  cases c with
  | kpRead => obtain ⟨-, rfl⟩ := kpRead_next h; exact kpRead_mem s
  | kpFront => obtain ⟨-, rfl⟩ := kpFront_next h; exact frontBody_mem s
  | kpFinal => obtain ⟨-, rfl⟩ := kpFinal_next h; exact finalBody_mem s
  | kpClear => obtain ⟨-, rfl⟩ := kpClear_next h; rfl
  | csBegin => obtain ⟨-, rfl⟩ := csBegin_next h; rfl
  | csEnd => rcases csEnd_next h with ⟨-, rfl⟩ | ⟨-, rfl⟩ <;> rfl

/-- A step that delivers no interrupt and is no restart. -/
theorem step_settingsKept {s t : State} (hd : canDeliver s = false) (hturns : s.turns.head? ≠ some .restart)
    (h : step s = .next t) : SettingsKept s t := by
  cases step_next h with
  | slave _ _ _ hd' | tick _ _ hd' => rw [hd] at hd'; cases hd'
  | kpInit ts _ _ ht => subst ht; exact .of_mem rfl
  | boot ts b _ _ _ ht => rcases ht with ⟨-, -, rfl⟩ | rfl <;> exact .of_mem rfl
  | poll ts _ _ _ he => rw [mlPoll_next he]; exact .of_mem rfl
  | handler ts f rest _ _ _ he => exact handler_settingsKept (s := { s with turns := ts, mainOps := rest }) he
  | latch ts k rest _ _ _ ht => subst ht; exact latch_settingsKept k s
  | push ts n rest _ _ _ he => exact pushSlot_settingsKept (s := { s with turns := ts, mainOps := rest }) he
  | lcdCall ts c rest _ _ _ ht => subst ht; exact .of_mem rfl
  | call ts c _ _ _ he => exact .of_mem (call_mem (s := { s with turns := ts }) he)
  | restart ts _ hs => rw [hs] at hturns; exact absurd rfl hturns
  | arrival _ ht => exact .of_mem (congrArg State.mem ht :)

/-! ## The delivery while a handler waits -/

/-- From `s` to `t` nothing has changed of what `MAIN` still has to do, of the record of calls, of the pins, and of the
pending bits. -/
structure WaitingKept (s t : State) : Prop where
  mainOps : t.mainOps = s.mainOps
  lcd : t.lcd = s.lcd
  panelPin : t.panelPin = s.panelPin
  backlightPin : t.backlightPin = s.backlightPin
  irqI2C : t.irqI2C = s.irqI2C
  irqTimer : t.irqTimer = s.irqTimer

/-- A slave event completes and keeps a waiting handler waiting. -/
theorem slave_waitingKept {i : Instr} (hf : i.format = .slv) {s : State} (hroom : RoomInGuard s) :
    ∃ t, exec i s = .next t ∧ WaitingKept s t := by
  rcases slave_forms hf s with ⟨w, m, n, x, hx, -, -⟩ | ⟨v, x, hx, -⟩ | ⟨f, side, e, b, hside, -, -, -, -, hx⟩ <;>
    rw [hx]
  · exact ⟨_, rfl, rfl, rfl, rfl, rfl, rfl, rfl⟩
  · exact ⟨_, rfl, rfl, rfl, rfl, rfl, rfl, rfl⟩
  · have hroom' : RoomInGuard s.beginEvent := hroom
    rcases writeField_cases f side e b s.beginEvent hside hroom' with ⟨-, hw⟩ | ⟨-, -, hw⟩ | ⟨-, -, hw⟩ <;> rw [hw]
    · exact ⟨_, rfl, rfl, rfl, rfl, rfl, rfl, rfl⟩
    · exact ⟨_, rfl, rfl, rfl, rfl, rfl, rfl, rfl⟩
    · rcases hside (s.beginEvent.setField f b) with hu | hu <;> rw [hu] <;>
        exact ⟨_, rfl, rfl, rfl, rfl, rfl, rfl, rfl⟩

/-- So does a tick, with a sound ring. -/
theorem tick_waitingKept {s : State} (hring : ringOk s = true) (hroom : RoomInGuard s) :
    ∃ t, exec .tick s = .next t ∧ WaitingKept s t := by
  rcases timerTick_cases s with ⟨hbroken, -⟩ | ⟨u, hcapture, htick⟩
  · rw [hring] at hbroken; cases hbroken
  · have hu : WaitingKept s u := by rw [kpCapture_frame hcapture]; exact ⟨rfl, rfl, rfl, rfl, rfl, rfl⟩
    have hroom' : RoomInGuard { u with tickCount := 0 } := by rw [kpCapture_frame hcapture]; exact hroom
    rcases htick with ⟨-, htick⟩ | ⟨-, htick⟩
    · exact ⟨_, congrArg toOutcome htick, { hu with }⟩
    · exact ⟨_, congrArg toOutcome (htick.trans (evRaise_room .timer hroom')), { hu with }⟩

theorem irqTimer_of_nextSource {s : State} (h : nextSource s = .timer) : s.irqTimer = true := by
  by_contra ht
  rw [nextSource_i2c (Bool.eq_false_of_not_eq_true ht)] at h
  cases h

/-- The delivery of an event of the six kinds. -/
theorem deliverSlave_waiting {s : State} (hroom : RoomInGuard s) (hunit : s.i2cEvent.unit = .slave)
    (hkind : s.i2cEvent.kind.toNat < 6) :
    ∃ t, deliverSlave s = .next t ∧ WaitingKept { s with irqI2C := false } t := by
  cases hdec : decode (fetchBytes (enterHandler .i2c s)) with
  | error e => exact absurd ((decode_fetch_error_iff (enterHandler .i2c s)).1 ⟨e, hdec⟩) (Nat.not_le.2 hkind)
  | ok i =>
    have hroom' : RoomInGuard (enterHandler .i2c s) := hroom
    obtain ⟨u, hexec, hkept⟩ := slave_waitingKept (decode_slv hdec).2 hroom'
    have hcallback : slaveCallback (enterHandler .i2c s) = .next u := by
      rw [slaveCallback, enterSlave_i2cEvent, hunit, hdec]
      exact hexec
    refine ⟨leaveHandler u, by rw [deliverSlave, hcallback]; rfl, { hkept with }⟩

theorem deliverTimer_waiting {s : State} (hring : ringOk s = true) (hroom : RoomInGuard s) :
    ∃ t, deliverTimer s = .next t ∧ WaitingKept { s with irqTimer := false } t := by
  have hring' : ringOk (enterHandler .timer s) = true := hring
  have hroom' : RoomInGuard (enterHandler .timer s) := hroom
  obtain ⟨u, hexec, hkept⟩ := tick_waitingKept hring' hroom'
  exact ⟨leaveHandler u, by rw [deliverTimer, hexec]; rfl, { hkept with }⟩

/-- Settles O23: between interrupts by the inversion of a step (`step_settingsKept`), and a delivery by the source whose
handler runs. -/
theorem mainWritesOnlyKeyAndSentMarks : Obligations.MainWritesOnlyKeyAndSentMarks := by
  refine ⟨fun s t hd hturns h a h2 hslot => memRead_congr_pos (by omega) (step_settingsKept hd hturns h a h2 hslot),
    fun s c rest hm hgie hisr hroom hring hpending hevent => ?_⟩
  rw [step_deliver ((canDeliver_iff s).2 ⟨hgie, hisr, hpending.symm⟩), deliver]
  obtain ⟨n, hn⟩ := countArbitration_eq s
  rw [hn]
  cases hsrc : nextSource s with
  | i2c =>
    have hi := irqI2C_of_nextSource hpending.symm hsrc
    obtain ⟨hunit, hkind⟩ := hevent hi
    obtain ⟨t, hstep, hkept⟩ := deliverSlave_waiting (s := { s with arbCount := n }) hroom hunit hkind
    exact ⟨t, hstep, hkept.mainOps.trans hm, hkept.lcd, hkept.panelPin, hkept.backlightPin,
      .inl ⟨hi, hkept.irqI2C, hkept.irqTimer⟩⟩
  | timer =>
    obtain ⟨t, hstep, hkept⟩ := deliverTimer_waiting (s := { s with arbCount := n }) hring hroom
    exact ⟨t, hstep, hkept.mainOps.trans hm, hkept.lcd, hkept.panelPin, hkept.backlightPin,
      .inr ⟨irqTimer_of_nextSource hsrc, hkept.irqTimer, hkept.irqI2C⟩⟩

end Sys2Proof.Machine

/-! # The keypad's operations (`spec/42_keypad.md` R140 to R148)

Each operation has an equation of `exec` for a state it is entered in with the ring invariant; the statements then follow
from what the shared operation answers. -/

namespace Sys2Proof.Machine

/-! ## The operations with a sound ring -/

theorem exec_kpScan {s : State} (h : ringOk s = true) : exec .kpScan s = .next { s with result := .key (kpScan s.keys) } :=
  congrArg (toOutcomeWith CallResult.key) (withRing_ok h _)

theorem exec_kpRead {s : State} (h : ringOk s = true) :
    exec .kpRead s = .next { (kpRead s).2 with result := .key (kpRead s).1 } :=
  congrArg (toOutcomeWith CallResult.key) (withRing_ok h _)

theorem exec_kpInsert (k : Byte) {s : State} (h : ringOk s = true) :
    exec (.kpInsert k) s = .next { (kpInsert k s).2 with result := .inserted (kpInsert k s).1 } :=
  congrArg (toOutcomeWith CallResult.inserted) (withRing_ok h _)

theorem exec_kpInsert_corrupt (k : Byte) {s : State} (h : ringOk s = false) :
    exec (.kpInsert k) s = .fault .ringCorrupt :=
  congrArg (toOutcomeWith CallResult.inserted) (withRing_corrupt h _)

theorem exec_kpCapture {s : State} (h : ringOk s = true) :
    exec .kpCapture s =
      .next (if (kpRead s).1 = keyNone then (kpRead s).2 else (kpInsert (kpRead s).1 (kpRead s).2).2) :=
  congrArg toOutcome (kpCapture_ok h)

theorem exec_kpFront {s : State} (h : ringOk s = true) (hr : RoomInGuard s) :
    exec .kpFront s = .next { afterBracket (frontBody s).2 with result := .key (frontBody s).1 } :=
  congrArg (toOutcomeWith CallResult.key) (kpFront_ok h hr)

theorem exec_kpFinal {s : State} (h : ringOk s = true) (hr : RoomInGuard s) :
    exec .kpFinal s = .next { afterBracket (finalBody s).2 with result := .key (finalBody s).1 } :=
  congrArg (toOutcomeWith CallResult.key) (kpFinal_ok h hr)

theorem exec_kpClear {s : State} (h : ringOk s = true) (hr : RoomInGuard s) :
    exec .kpClear s = .next (afterBracket { s with kbegin := 0, kend := 0, ksize := 0 }) :=
  congrArg toOutcome (kpClear_ok h hr)

/-! ## Initialisation and scan (R140, R141) -/

/-- Settles O49: the boot stage decides (U15, log entry 30). -/
theorem keypadInitOnceAtBoot : Obligations.KeypadInitOnceAtBoot :=
  fun _ _ => ⟨fun h => if_pos h, fun h => if_neg h⟩

/-- The scan goes through the sixteen positions in the order of their codes. -/
theorem scanOrder_eq : scanOrder = (List.range 16).map fun i => (i / 4, i % 4) := by decide

theorem kpScan_none {m : KeyMatrix} (h : ∀ r c, r < 4 → c < 4 → pressed m r c = false) : kpScan m = keyNone := by
  have hfind : scanOrder.find? (fun p => pressed m p.1 p.2) = none := by
    rw [List.find?_eq_none]
    rintro ⟨r, c⟩ hmem
    obtain ⟨hr, hc⟩ : r < 4 ∧ c < 4 := by simpa [scanOrder] using hmem
    simp [h r c hr hc]
  rw [kpScan, hfind]

/-- A scan finds the first pressed position, rows before columns (D19). -/
theorem kpScan_first {m : KeyMatrix} {r c : Nat} (hr : r < 4) (hc : c < 4) (hp : pressed m r c = true)
    (hfirst : ∀ r' c', r' < 4 → c' < 4 → 4 * r' + c' < 4 * r + c → pressed m r' c' = false) :
    kpScan m = keyCode r c := by
  have hfind : scanOrder.find? (fun p => pressed m p.1 p.2) = some (r, c) := by
    rw [scanOrder_eq, List.find?_eq_some_iff_getElem]
    refine ⟨hp, 4 * r + c, by simp; omega, ?_, fun j hj => ?_⟩
    · simp only [List.getElem_map, List.getElem_range, Prod.mk.injEq]
      omega
    · simp only [List.getElem_map, List.getElem_range]
      rw [hfirst (j / 4) (j % 4) (by omega) (by omega) (by omega)]
      rfl
  rw [kpScan, hfind]

/-- Settles O50: the scan's code is `keyNone`, or that of the first pressed position. -/
theorem scanAnswersTheFirstPressedKey : Obligations.ScanAnswersTheFirstPressedKey := by
  refine fun s hring => ⟨exec_kpScan hring, fun hnone => ?_, fun r c hr hc hp hfirst => ?_⟩
  · rw [exec_kpScan hring, kpScan_none hnone]; rfl
  · rw [exec_kpScan hring, kpScan_first hr hc hp hfirst]; rfl

/-! ## The debounced read (R142) -/

/-- A code other than the last starts a new run. -/
theorem kpRead_new {s : State} (h : kpScan s.keys ≠ s.lastKey) :
    kpRead s = (keyNone, { s with lastKey := kpScan s.keys, checkCount := 1 }) := if_pos h

/-- With no key again nothing moves (D21). -/
theorem kpRead_idle {s : State} (h : kpScan s.keys = s.lastKey) (hk : kpScan s.keys = keyNone) :
    kpRead s = (keyNone, s) := by
  simp only [kpRead, if_neg (not_not.2 h), if_pos hk]

section HeldKey

variable {s : State} (h : kpScan s.keys = s.lastKey) (hk : kpScan s.keys ≠ keyNone)
include h hk

/-- The key still down is reported at `T_DEBOUNCE` and at `T_HOLD`. -/
theorem kpRead_report (hn : s.checkCount + 1 = s.params.tDebounce ∨ s.checkCount + 1 = s.params.tHold) :
    kpRead s = (kpScan s.keys, { s with checkCount := s.checkCount + 1 }) := by
  simp only [kpRead, if_neg (not_not.2 h), if_neg hk]
  rcases hn with hd | hh
  · rw [if_pos hd]
  · rw [if_pos hh, ite_self]

/-- It is reported again at `T_HOLD + T_REPEAT`, and the count goes back to `T_HOLD` (D20). -/
theorem kpRead_repeat (hd : s.checkCount + 1 ≠ s.params.tDebounce) (hh : s.checkCount + 1 ≠ s.params.tHold)
    (hr : s.checkCount + 1 = s.params.tHold + s.params.tRepeat) :
    kpRead s = (kpScan s.keys, { s with checkCount := s.params.tHold }) := by
  simp only [kpRead, if_neg (not_not.2 h), if_neg hk, if_neg hd, if_neg hh, if_pos hr]

/-- Off the thresholds it only counts. -/
theorem kpRead_count (hd : s.checkCount + 1 ≠ s.params.tDebounce) (hh : s.checkCount + 1 ≠ s.params.tHold)
    (hr : s.checkCount + 1 ≠ s.params.tHold + s.params.tRepeat) :
    kpRead s = (keyNone, { s with checkCount := s.checkCount + 1 }) := by
  simp only [kpRead, if_neg (not_not.2 h), if_neg hk, if_neg hd, if_neg hh, if_neg hr]

end HeldKey

/-- Settles O51: one equation of `kpRead` for each clause. -/
theorem readFollowsTheDebounceRules : Obligations.ReadFollowsTheDebounceRules := by
  rintro s k hring rfl
  rw [exec_kpRead hring]
  refine ⟨fun hnew => ?_, fun hsame hnone => ?_, fun hsame hkey n hn => ?_⟩
  · rw [kpRead_new hnew]; rfl
  · rw [kpRead_idle hsame hnone]; rfl
  · subst hn
    refine ⟨fun hn => ?_, fun hd hh hr => ?_, fun hd hh hr => ?_⟩
    · rw [kpRead_report hsame hkey hn]
    · rw [kpRead_repeat hsame hkey hd hh hr]
    · rw [kpRead_count hsame hkey hd hh hr]; rfl

/-! ## A key held over a row of reads (R142; D20) -/

/-- The key of a run is reported at call number `n`. -/
def ReportedAt (p : Params) (n : Nat) : Prop :=
  n = p.tDebounce ∨ n = p.tHold ∨ ∃ m, 1 ≤ m ∧ n = p.tHold + m * p.tRepeat

/-- `checkCount` after `n` calls: it counts to `T_HOLD`, and from there goes round in the range of `T_REPEAT` values above
it (`spec/10_state.md` R27). -/
def heldCount (p : Params) (n : Nat) : Nat := if n < p.tHold then n else p.tHold + (n - p.tHold) % p.tRepeat

theorem heldCount_of_lt {p : Params} {n : Nat} (h : n < p.tHold) : heldCount p n = n := if_pos h

theorem heldCount_add (p : Params) (d : Nat) : heldCount p (p.tHold + d) = p.tHold + d % p.tRepeat := by
  rw [heldCount, if_neg (by omega), Nat.add_sub_cancel_left]

/-- A count modulo `r` goes up by one, but after `r - 1` it is 0. -/
theorem succ_mod_eq_ite {d r : Nat} (hr : 1 ≤ r) : (d + 1) % r = if d % r + 1 = r then 0 else d % r + 1 := by
  obtain ⟨b, rfl⟩ := Nat.exists_eq_add_of_le' hr
  have hlt := Nat.mod_lt d hr
  split
  · next h => exact Nat.succ_mod_succ_eq_zero_iff.2 (Nat.succ_inj.1 h)
  · next h => rw [← Nat.mod_add_mod, Nat.mod_eq_of_lt (by omega)]

section Thresholds

variable {p : Params} (hwf : p.wf) {n : Nat}
include hwf

/-- The count comes to `T_HOLD + T_REPEAT` exactly at the calls `T_HOLD + m * T_REPEAT` with m >= 1: above `T_HOLD` by a
multiple of `T_REPEAT` that is not 0. -/
theorem heldCount_repeats_iff :
    heldCount p n + 1 = p.tHold + p.tRepeat ↔ ∃ m, 1 ≤ m ∧ n + 1 = p.tHold + m * p.tRepeat := by
  obtain ⟨-, -, -, hrep, -⟩ := hwf
  rcases Nat.lt_or_ge n p.tHold with hn | hn
  · rw [heldCount_of_lt hn]
    refine ⟨fun h => by omega, fun ⟨m, hm, h⟩ => ?_⟩
    have hpos := Nat.mul_pos hm hrep
    omega
  · obtain ⟨d, rfl⟩ := Nat.exists_eq_add_of_le hn
    rw [heldCount_add]
    have hround : p.tRepeat ∣ d + 1 ↔ d % p.tRepeat + 1 = p.tRepeat := by
      rw [Nat.dvd_iff_mod_eq_zero, succ_mod_eq_ite hrep]
      split <;> simp [*]
    constructor
    · intro h
      obtain ⟨m, hm⟩ := hround.2 (by omega)
      rw [Nat.mul_comm] at hm
      exact ⟨m, Nat.pos_of_ne_zero fun h0 => by simp [h0] at hm, by omega⟩
    · rintro ⟨m, -, h⟩
      have hlast := hround.1 ⟨m, by rw [Nat.mul_comm]; omega⟩
      omega

/-- The thresholds of a single call (`kpRead`) are those of the call number. -/
theorem reportedAt_succ_iff : ReportedAt p (n + 1) ↔
    (heldCount p n + 1 = p.tDebounce ∨ heldCount p n + 1 = p.tHold) ∨ heldCount p n + 1 = p.tHold + p.tRepeat := by
  rw [heldCount_repeats_iff hwf, ReportedAt, ← or_assoc]
  refine or_congr_left ?_
  obtain ⟨-, -, hhold, -⟩ := hwf
  unfold heldCount
  split
  · rfl
  · omega

/-- The count of the next call, as `kpRead` computes it. -/
theorem heldCount_succ :
    heldCount p (n + 1) = if heldCount p n + 1 = p.tHold + p.tRepeat then p.tHold else heldCount p n + 1 := by
  obtain ⟨-, -, -, hrep, -⟩ := hwf
  rcases Nat.lt_or_ge n p.tHold with hn | hn
  · rw [heldCount_of_lt hn, if_neg (by omega)]
    rcases Nat.lt_or_eq_of_le (Nat.succ_le_of_lt hn) with hlt | heq
    · exact heldCount_of_lt hlt
    · rw [show n + 1 = p.tHold + 0 from heq, heldCount_add, Nat.zero_mod]
  · obtain ⟨d, rfl⟩ := Nat.exists_eq_add_of_le hn
    rw [Nat.add_assoc, heldCount_add, heldCount_add, succ_mod_eq_ite hrep]
    split <;> split <;> omega

end Thresholds

/-- The state after `n` calls of the read with the key of `s` held, the last of which answered `x`. -/
def State.heldFor (s : State) (n : Nat) (x : Byte) : State :=
  { s with lastKey := kpScan s.keys, checkCount := heldCount s.params n, result := .key x }

/-- What call number `n` answers for the held key `k`. -/
def HeldAnswer (p : Params) (n : Nat) (k x : Byte) : Prop :=
  (ReportedAt p n → x = k) ∧ (¬ ReportedAt p n → x = keyNone)

theorem not_reportedAt_one {p : Params} (hwf : p.wf) : ¬ ReportedAt p 1 := by
  obtain ⟨-, hdeb, hhold, -⟩ := hwf
  rintro (h | h | ⟨m, -, h⟩) <;> omega

/-- The first call starts the run. -/
theorem exec_kpRead_first {s : State} (hwf : s.params.wf) (hring : ringOk s = true) (hnew : s.lastKey ≠ kpScan s.keys) :
    exec .kpRead s = .next (s.heldFor 1 keyNone) := by
  have ⟨_, hdeb, hhold, _⟩ := hwf
  rw [exec_kpRead hring, kpRead_new hnew.symm, State.heldFor, heldCount_of_lt (by omega)]

/-- Every further call moves the run on by one. -/
theorem exec_kpRead_heldFor {s : State} (hwf : s.params.wf) (hring : ringOk s = true) (hkey : kpScan s.keys ≠ keyNone)
    (n : Nat) (x : Byte) :
    ∃ y, exec .kpRead (s.heldFor n x) = .next (s.heldFor (n + 1) y) ∧ HeldAnswer s.params (n + 1) (kpScan s.keys) y := by
  have hring' : ringOk (s.heldFor n x) = true := hring
  have hkey' : kpScan (s.heldFor n x).keys ≠ keyNone := hkey
  rw [exec_kpRead hring']
  have hcount := heldCount_succ hwf (n := n)
  simp only [HeldAnswer, reportedAt_succ_iff hwf]
  by_cases hn : heldCount s.params n + 1 = s.params.tDebounce ∨ heldCount s.params n + 1 = s.params.tHold
  · have ⟨_, _, hhold, hrep, _⟩ := hwf
    refine ⟨kpScan s.keys, ?_, fun _ => rfl, fun h => absurd (.inl hn) h⟩
    rw [if_neg (by omega)] at hcount
    rw [kpRead_report rfl hkey' hn]
    simp only [State.heldFor, hcount]
  · obtain ⟨hd, hh⟩ := not_or.1 hn
    by_cases hr : heldCount s.params n + 1 = s.params.tHold + s.params.tRepeat
    · refine ⟨kpScan s.keys, ?_, fun _ => rfl, fun h => absurd (.inr hr) h⟩
      rw [if_pos hr] at hcount
      rw [kpRead_repeat rfl hkey' hd hh hr]
      simp only [State.heldFor, hcount]
    · refine ⟨keyNone, ?_, fun h => absurd h (not_or.2 ⟨hn, hr⟩), fun _ => rfl⟩
      rw [if_neg hr] at hcount
      rw [kpRead_count rfl hkey' hd hh hr]
      simp only [State.heldFor, hcount]

theorem execTimes_kpRead_held {s : State} (hwf : s.params.wf) (hring : ringOk s = true) (hkey : kpScan s.keys ≠ keyNone)
    (hnew : s.lastKey ≠ kpScan s.keys) (n : Nat) :
    ∃ x, execTimes (n + 1) .kpRead s = .next (s.heldFor (n + 1) x) ∧
      HeldAnswer s.params (n + 1) (kpScan s.keys) x := by
  induction n with
  | zero => exact ⟨keyNone, exec_kpRead_first hwf hring hnew, fun h => absurd h (not_reportedAt_one hwf), fun _ => rfl⟩
  | succ n ih =>
    obtain ⟨x, hx, -⟩ := ih
    rw [execTimes, hx]
    exact exec_kpRead_heldFor hwf hring hkey (n + 1) x

/-- Settles O26, by induction on the number of calls: the state after each is `State.heldFor`. -/
theorem heldKeyIsReportedAtTheThresholds : Obligations.HeldKeyIsReportedAtTheThresholds := by
  intro s n hwf hring hkey hnew hn
  obtain ⟨n, rfl⟩ := Nat.exists_eq_add_of_le' hn
  obtain ⟨x, hx, hreported, hquiet⟩ := execTimes_kpRead_held hwf hring hkey hnew n
  exact ⟨_, hx, fun h => congrArg CallResult.key (hreported h), fun h => congrArg CallResult.key (hquiet h)⟩

/-! ## Insertion and capture (R144, R145) -/

/-- Settles O52: the two ends of an insertion, and the check at its entry. -/
theorem insertAppendsOrFails : Obligations.InsertAppendsOrFails := by
  refine fun k s _ => ⟨fun hring hfull => ?_, fun hring hroom => ?_, exec_kpInsert_corrupt k⟩
  · rw [exec_kpInsert k hring, kpInsert_full hfull]
  · rw [exec_kpInsert k hring, kpInsert_room hroom]

/-- An insertion neither reads nor writes the last result. -/
theorem kpInsert_withResult (k : Byte) (s : State) (r : CallResult) :
    { (kpInsert k { s with result := r }).2 with result := s.result } = (kpInsert k s).2 := by
  unfold kpInsert; split <;> rfl

theorem kpRead_result (s : State) : (kpRead s).2.result = s.result := by rw [kpRead_frame]

theorem kpRead_ringOk (s : State) : ringOk (kpRead s).2 = ringOk s := by rw [kpRead_frame]; rfl

/-- Settles O54: a capture is the read and, of a reported key, the insertion; it differs from the two operations in a row
only in leaving `result`. -/
theorem captureInsertsTheReportedKey : Obligations.CaptureInsertsTheReportedKey := by
  intro s hring
  by_cases hk : (kpRead s).1 = keyNone
  · refine ⟨_, _, _, exec_kpRead hring, rfl, fun _ => rfl, fun hne => absurd hk hne, ?_⟩
    rw [exec_kpCapture hring, if_pos hk, ← kpRead_result s]
  · have hring' : ringOk { (kpRead s).2 with result := .key (kpRead s).1 } = true := (kpRead_ringOk s).trans hring
    refine ⟨_, _, _, exec_kpRead hring, rfl, fun hnone => absurd hnone hk, fun _ => exec_kpInsert _ hring', ?_⟩
    rw [exec_kpCapture hring, if_neg hk, ← kpRead_result s]
    exact congrArg Host.Outcome.next (kpInsert_withResult (kpRead s).1 (kpRead s).2 _).symm

/-! ## Taking from the ring (R146 to R148) -/

theorem frontBody_empty {s : State} (h : s.ksize = 0) : frontBody s = (keyNone, s) := if_pos h

theorem frontBody_entry {s : State} (h : s.ksize ≠ 0) : frontBody s =
    (s.kbuf.getD s.kbegin keyNone, { s with kbegin := (s.kbegin + 1) % s.params.keyBufCap, ksize := s.ksize - 1 }) :=
  if_neg h

theorem finalBody_empty {s : State} (h : s.ksize = 0) : finalBody s = (keyNone, s) := if_pos h

theorem finalBody_entry {s : State} (h : s.ksize ≠ 0) : finalBody s =
    (s.kbuf.getD ((s.kend + s.params.keyBufCap - 1) % s.params.keyBufCap) keyNone,
      { s with kbegin := s.kend, ksize := 0 }) := if_neg h

/-- A read of one of the N cells. -/
theorem kbuf_getElem?_getD {s : State} (hlen : s.kbuf.length = s.params.keyBufCap) {i : Nat} (hi : i < s.params.keyBufCap) :
    s.kbuf[i]? = some (s.kbuf.getD i keyNone) := by
  rw [List.getD, List.getElem?_eq_getElem (hlen ▸ hi), Option.getD_some]

/-- Settles O55: the index invariant puts `kbegin` inside the N cells, so the answer is a stored entry. -/
theorem frontTakesTheOldest : Obligations.FrontTakesTheOldest := by
  intro s hring hlen hroom
  obtain ⟨-, hbegin, -⟩ := (ringOk_iff s).1 hring
  rw [exec_kpFront hring hroom]
  refine ⟨fun hempty => ?_, fun hne => ⟨_, kbuf_getElem?_getD hlen hbegin, ?_⟩⟩
  · rw [frontBody_empty hempty]; rfl
  · rw [frontBody_entry hne]; rfl

/-- Settles O56: the cell before `kend` modulo N is one of the N cells. -/
theorem finalAndClearEmptyTheRing : Obligations.FinalAndClearEmptyTheRing := by
  intro s hring hlen hroom
  obtain ⟨-, hbegin, -⟩ := (ringOk_iff s).1 hring
  have hcell : (s.kend + s.params.keyBufCap - 1) % s.params.keyBufCap < s.params.keyBufCap := Nat.mod_lt _ (by omega)
  rw [exec_kpFinal hring hroom]
  refine ⟨fun hempty => ?_, fun hne => ⟨_, kbuf_getElem?_getD hlen hcell, ?_⟩, exec_kpClear hring hroom⟩
  · rw [finalBody_empty hempty]; rfl
  · rw [finalBody_entry hne]; rfl

end Sys2Proof.Machine

/-! # The guard's own instructions (`spec/43_critical_section.md` R160, R161) -/

namespace Sys2Proof.Machine

/-- Settles O57: the guard has room exactly below the depth 255. -/
theorem csBeginDisablesAndCounts : Obligations.CsBeginDisablesAndCounts := by
  refine fun s => ⟨fun hroom => ?_, fun hfull => ?_⟩
  · exact congrArg toOutcome (csBegin_room hroom)
  · exact congrArg toOutcome (csBegin_full (Nat.not_lt.2 hfull))

/-- Settles O58: the depth is in one of the three ranges, whose clause `csEnd_cases` answers; no other clause applies. -/
theorem csEndCountsDownAndEnables : Obligations.CsEndCountsDownAndEnables := by
  intro s
  rcases csEnd_cases s with ⟨hd, he⟩ | ⟨hd, he⟩ | ⟨hd, he⟩
  · exact ⟨fun _ => congrArg toOutcome he, fun _ => by omega, fun _ => by omega⟩
  · exact ⟨fun _ => by omega, fun _ => congrArg toOutcome he, fun _ => by omega⟩
  · exact ⟨fun _ => by omega, fun _ => by omega, fun _ => congrArg toOutcome he⟩

end Sys2Proof.Machine

/-! # The timer tick (`spec/44_timer_tick.md` R170) -/

namespace Sys2Proof.Machine

/-- Settles O59: with a sound ring and room in the guard a tick completes (`tick_waitingKept`), and `tick_next` says with
which of the two outcomes. The bracket of the raise is the outermost exactly if it would have been so before the capture,
which does not touch the guard. -/
theorem tickCapturesAndDivides : Obligations.TickCapturesAndDivides := by
  intro s hring hroom
  obtain ⟨t, htick, -⟩ := tick_waitingKept hring hroom
  obtain ⟨u, hcapture, houtcome⟩ := tick_next htick
  have hdepth : u.csDepth = s.csDepth := by rw [kpCapture_frame hcapture]
  refine ⟨u, congrArg toOutcome hcapture, ?_⟩
  rw [htick]
  rcases houtcome with ⟨hcount, rfl⟩ | ⟨hfull, rfl⟩
  · exact ⟨fun _ => rfl, fun hfull => absurd hfull hcount⟩
  · refine ⟨fun hcount => absurd hfull hcount, fun _ => ?_⟩
    rw [← hdepth]; rfl

end Sys2Proof.Machine

/-! # Interrupt delivery (`spec/60_exceptions.md` R186, R187, R189, R190) -/

namespace Sys2Proof.Machine

theorem deliver_i2c {s : State} (h : nextSource s = .i2c) : deliver s = deliverSlave (countArbitration s) := by
  rw [deliver, h]

theorem deliver_timer {s : State} (h : nextSource s = .timer) : deliver s = deliverTimer (countArbitration s) := by
  rw [deliver, h]

/-- The slave's handler is the decoded operation between entry and return: entry leaves what the operation is decoded
from. -/
theorem deliverSlave_of_decode {s : State} {i : Instr} (hunit : s.i2cEvent.unit = .slave)
    (hdec : decode (fetchBytes s) = .ok i) : deliverSlave s = returning (exec i (enterHandler .i2c s)) := by
  have hdec' : decode (fetchBytes (enterHandler .i2c s)) = .ok i := hdec
  simp only [deliverSlave, slaveCallback, enterSlave_i2cEvent, hunit, hdec']

/-- Settles O4: with the timer's interrupt clear the source is the slave's, and nothing is counted. -/
theorem stepRunsTheDecodedSlaveEvent : Obligations.StepRunsTheDecodedSlaveEvent := by
  intro s i hgie hisr hi ht hunit hdec
  have hstep : step s = returning (exec i (enterHandler .i2c s)) := by
    rw [step_deliver ((canDeliver_iff s).2 ⟨hgie, hisr, .inl hi⟩), deliver_i2c (nextSource_i2c ht),
      countArbitration_one (by simp [ht]), deliverSlave_of_decode hunit hdec]
  have hreturn : ∀ o, exec i { s with inIsr := true, irqI2C := false } = o → step s = returning o :=
    fun o ho => hstep.trans (congrArg returning ho)
  exact ⟨(decode_slv hdec).1, fun t => hreturn (.next t), fun e => hreturn (.fault e)⟩

/-- Settles O5: with the slave's interrupt clear the source is the timer, and nothing is counted. -/
theorem stepRunsTheTick : Obligations.StepRunsTheTick := by
  intro s hgie hisr hi ht
  have hstep : step s = returning (exec .tick (enterHandler .timer s)) := by
    rw [step_deliver ((canDeliver_iff s).2 ⟨hgie, hisr, .inr ht⟩), deliver_timer (nextSource_timer hi ht),
      countArbitration_one (by simp [hi]), deliverTimer]
  have hreturn : ∀ o, exec .tick { s with inIsr := true, irqTimer := false } = o → step s = returning o :=
    fun o ho => hstep.trans (congrArg returning ho)
  exact ⟨fun t => hreturn (.next t), fun e => hreturn (.fault e)⟩

end Sys2Proof.Machine

/-! # Faults (`spec/60_exceptions.md` R183) -/

namespace Sys2Proof.Machine

/-! ## The broken ring -/

theorem exec_dspTimer_corrupt {s : State} (h : ringOk s = false) : exec .dspTimer s = .fault .ringCorrupt := by
  have hfinal : kpFinal s = .error .ringCorrupt := withRing_corrupt h _
  change execDspTimer s = _
  rw [execDspTimer, hfinal]

theorem exec_kpCapture_corrupt {s : State} (h : ringOk s = false) : exec .kpCapture s = .fault .ringCorrupt :=
  congrArg toOutcome (withRing_corrupt h _)

theorem exec_tick_corrupt {s : State} (h : ringOk s = false) : exec .tick s = .fault .ringCorrupt := by
  have hcapture : kpCapture s = .error .ringCorrupt := withRing_corrupt h _
  change toOutcome (timerTick s) = _
  rw [timerTick, hcapture]
  rfl

/-- Settles O53: each of the operations begins with the check of the ring (`withRing`), on its own or in the operation it
enters. -/
theorem brokenRingIsAFault : Obligations.BrokenRingIsAFault := by
  rintro s h i (hi | ⟨k, rfl⟩)
  · have hkey : ∀ x, toOutcomeWith CallResult.key (withRing s x) = .fault .ringCorrupt := fun x =>
      congrArg (toOutcomeWith CallResult.key) (withRing_corrupt h x)
    have hclear : exec .kpClear s = .fault .ringCorrupt := congrArg toOutcome (withRing_corrupt h _)
    revert i
    simp only [List.forall_mem_cons]
    exact ⟨hkey _, hkey _, exec_kpCapture_corrupt h, hkey _, hkey _, hclear, exec_dspTimer_corrupt h, exec_tick_corrupt h,
      nofun⟩
  · exact exec_kpInsert_corrupt k h

end Sys2Proof.Machine

/-! # The effect of a slave event and of a tick (`spec/60_exceptions.md` R181, R187, R193)

A slave event's effect is decided by what it finds in the register map, the cursor and `writeStart` (and, if it reads
`status`, there); a tick's by the keypad and the divider. Neither writes what decides the other, and raises commute. -/

namespace Sys2Proof.Machine

/-! ## Raises -/

/-- The raise of a flag, or of none. -/
def State.raiseIf (s : State) : Option EventFlag → State
  | none => s
  | some f => afterBracket (s.raiseFlag f)

/-! ## Slave events -/

/-- What a slave event leaves in the registers it writes, and the flag it raises. -/
structure SlaveEffect where
  mem : Memory
  mapAddr : Byte
  writeStart : Bool
  nack : Bool
  tx : Option Byte
  flag : Option EventFlag

def SlaveEffect.apply (x : SlaveEffect) (s : State) : State :=
  State.raiseIf { s with
    mem := x.mem, mapAddr := x.mapAddr, writeStart := x.writeStart, nack := x.nack, tx := x.tx } x.flag

/-- The operation completes with an effect that the register map, the cursor and `writeStart` decide, and does not raise
TIMER. -/
def DecidedByMap (op : State → Host.Outcome State Fault Refusal) : Prop :=
  ∃ effect : Memory → Byte → Bool → SlaveEffect, (∀ m a w, (effect m a w).flag ≠ some .timer) ∧
    ∀ s, RoomInGuard s → op s = .next ((effect s.mem s.mapAddr s.writeStart).apply s)

/-- A read of a field, but for the read-clear (`spec/40_slave_engine.md` R97). -/
theorem respond_decidedByMap (f : Field) : DecidedByMap fun s => .next (s.beginEvent.respond (s.field f)) :=
  ⟨fun m a w => ⟨m, a + 1#8, w, false, some (m.read f.addr), none⟩, fun _ _ _ => nofun, fun _ _ => rfl⟩

/-- The effect of the common data write, whose side effect on the register map is `g` (`spec/40_slave_engine.md` R84). -/
def writeEffect (f : Field) (g : Memory → Memory) (e : EventFlag) (b : Byte) (m : Memory) (a : Byte) (w : Bool) :
    SlaveEffect :=
  if f.legal b then
    if b = m.read f.addr then ⟨m, a + 1#8, w, false, none, none⟩
    else ⟨g (m.write f.addr b), a + 1#8, w, false, none, some e⟩
  else ⟨m, a, w, true, none, none⟩

theorem writeField_decidedByMap (f : Field) {side : State → State} {g : Memory → Memory} {e : EventFlag} (b : Byte)
    (hside : ∀ u, side u = { u with mem := g u.mem }) (he : e ≠ .timer) :
    DecidedByMap fun s => toOutcome (writeField f side e b s.beginEvent) := by
  refine ⟨writeEffect f g e b, fun m a w => ?_, fun s hroom => ?_⟩ <;> unfold writeEffect <;>
    split_ifs with hlegal hsame
  · nofun
  · exact fun h => he (Option.some_inj.1 h)
  · nofun
  · exact dataWrite_unchanged hlegal ((memRead_eq_some_iff s f b).2 hsame)
  · have hroom' : RoomInGuard (side (s.beginEvent.setField f b)) := by rw [hside]; exact hroom
    dsimp only
    rw [writeField_changed (s := s.beginEvent) hlegal hsame hroom', hside]
    rfl
  · exact dataWrite_rejected (Bool.eq_false_of_not_eq_true hlegal)

theorem powerSideEffect_eq (b : Byte) (s : State) :
    powerSideEffect b s = { s with mem := if b.getLsbD 0 then s.mem else s.mem.powerOff } := by
  unfold powerSideEffect; split <;> rfl

theorem lineFlag_ne_timer (i : Fin 80) : lineFlag i ≠ .timer := by
  unfold lineFlag; split <;> nofun

/-- Every slave event but the read of `status`. -/
theorem slave_decidedByMap {i : Instr} (hf : i.format = .slv) (hi : ∀ k, i ≠ .rdStatus k) : DecidedByMap (exec i) := by
  cases i with
  | sWaddr => exact ⟨fun m a _ => ⟨m, a, true, false, none, none⟩, fun _ _ _ => nofun, fun _ _ => rfl⟩
  | sSetaddr b => exact ⟨fun m _ _ => ⟨m, b, false, false, none, none⟩, fun _ _ _ => nofun, fun _ _ => rfl⟩
  | sSetaddrOor b | wrOor b =>
    exact ⟨fun m a w => ⟨m, a, w, true, none, none⟩, fun _ _ _ => nofun, fun _ _ => rfl⟩
  | wrStatus b => exact ⟨fun m a w => ⟨m, a + 1#8, w, false, none, none⟩, fun _ _ _ => nofun, fun _ _ => rfl⟩
  | wrKey b =>
    exact ⟨fun m a w => ⟨m.write 0x01 b, a + 1#8, w, false, none, none⟩, fun _ _ _ => nofun, fun _ _ => rfl⟩
  | wrPower b =>
    exact writeField_decidedByMap .power b (g := fun m => if b.getLsbD 0 then m else m.powerOff) (powerSideEffect_eq b) nofun
  | wrContrast b => exact writeField_decidedByMap .contrast b (g := id) (fun _ => rfl) nofun
  | wrCursortype b => exact writeField_decidedByMap .cursorType b (g := id) (fun _ => rfl) nofun
  | wrCursorrow b => exact writeField_decidedByMap .cursorRow b (g := id) (fun _ => rfl) nofun
  | wrCursorcol b => exact writeField_decidedByMap .cursorCol b (g := id) (fun _ => rfl) nofun
  | wrDisplay j b => exact writeField_decidedByMap (.display j) b (g := id) (fun _ => rfl) (lineFlag_ne_timer j)
  | wrCgram j b => exact writeField_decidedByMap (.cgram j) b (g := id) (fun _ => rfl) nofun
  | wrIcon j b => exact writeField_decidedByMap (.icon j) b (g := id) (fun _ => rfl) nofun
  | rdStatus k => exact absurd rfl (hi k)
  | rdKey k =>
    exact ⟨fun m a w => ⟨m.write 0x01 keyNone, a + 1#8, w, false, some (m.read 0x01), none⟩, fun _ _ _ => nofun,
      fun _ _ => rfl⟩
  | rdPower k => exact respond_decidedByMap .power
  | rdContrast k => exact respond_decidedByMap .contrast
  | rdCursortype k => exact respond_decidedByMap .cursorType
  | rdCursorrow k => exact respond_decidedByMap .cursorRow
  | rdCursorcol k => exact respond_decidedByMap .cursorCol
  | rdDisplay k j => exact respond_decidedByMap (.display j)
  | rdCgram k j => exact respond_decidedByMap (.cgram j)
  | rdIcon k j => exact respond_decidedByMap (.icon j)
  | rdOor k => exact ⟨fun m a w => ⟨m, a, w, true, some keyNone, none⟩, fun _ _ _ => nofun, fun _ _ => rfl⟩
  | sRnack => exact ⟨fun m a w => ⟨m, a, w, false, none, none⟩, fun _ _ _ => nofun, fun _ _ => rfl⟩
  | sBuserr => exact ⟨fun m a _ => ⟨m, a, false, false, none, none⟩, fun _ _ _ => nofun, fun _ _ => rfl⟩
  | _ => cases hf

/-- The effect of a read of `status` that finds the byte `v` there (`spec/40_slave_engine.md` R98). -/
def statusEffect (m : Memory) (a : Byte) (w : Bool) (v : Byte) : SlaveEffect := ⟨m, a + 1#8, w, false, some v, none⟩

theorem exec_rdStatus (k : ReadEvent) (s : State) :
    exec (.rdStatus k) s = .next ((statusEffect s.mem s.mapAddr s.writeStart s.status.byte).apply s) := rfl

/-- Every slave event completes. -/
theorem slave_effect {i : Instr} (hf : i.format = .slv) {s : State} (hroom : RoomInGuard s) :
    ∃ x : SlaveEffect, x.flag ≠ some .timer ∧ exec i s = .next (x.apply s) := by
  by_cases hi : ∀ k, i ≠ .rdStatus k
  · obtain ⟨effect, hflag, hexec⟩ := slave_decidedByMap hf hi
    exact ⟨_, hflag _ _ _, hexec s hroom⟩
  · obtain ⟨k, rfl⟩ : ∃ k, i = .rdStatus k := by simpa using hi
    exact ⟨_, by simp [statusEffect], exec_rdStatus k s⟩

/-- Settles O21: the effect of a slave event is the registers it writes and at most one raise. -/
theorem slaveEventsCompleteAndKeepTheRest : Obligations.SlaveEventsCompleteAndKeepTheRest := by
  intro i s hf hroom
  obtain ⟨⟨m, a, w, n, x, flag⟩, hflag, hexec⟩ := slave_effect hf hroom
  refine ⟨_, hexec, ?_⟩
  cases flag with
  | none => exact ⟨rfl, .inl ⟨rfl, rfl, rfl⟩⟩
  | some f => exact ⟨rfl, .inr ⟨f, fun hf => hflag (congrArg some hf), rfl, rfl, rfl⟩⟩

/-- Settles O20: of the three forms of a slave event (`slave_forms`) the second never answers NACK, and the third only when
the byte is rejected, before anything is written. -/
theorem nackedEventChangesNothing : Obligations.NackedEventChangesNothing := by
  intro i s t hf h hnack
  rcases slave_forms hf s with ⟨w, m, n, x, hx, hkept, -⟩ | ⟨v, x, hx, -⟩ | ⟨f, side, e, b, hside, -, -, -, -, hx⟩ <;>
    rw [hx] at h
  · cases h
    obtain rfl : n = true := hnack
    obtain ⟨rfl, rfl, htx⟩ := hkept rfl
    exact ⟨rfl, htx⟩
  · cases h; cases hnack
  · rcases writeField_next (toOutcome_next h) with rfl | rfl | ⟨-, rfl⟩
    · exact ⟨rfl, .inl rfl⟩
    · cases hnack
    · rcases hside (s.beginEvent.setField f b) with hu | hu <;> rw [hu] at hnack <;> cases hnack

/-! ## The tick -/

/-- The state after the capture of a tick (`spec/42_keypad.md` R145). -/
def State.captured (s : State) : State :=
  if (kpRead s).1 = keyNone then (kpRead s).2 else (kpInsert (kpRead s).1 (kpRead s).2).2

theorem kpCapture_eq_captured {s : State} (hring : ringOk s = true) : kpCapture s = .ok s.captured := kpCapture_ok hring

/-- The state after the capture and the count of a tick, before its raise (`spec/44_timer_tick.md` R170). -/
def State.ticked (s : State) : State :=
  { s.captured with tickCount := if s.tickCount + 1 = s.params.timerEventDiv then 0 else s.tickCount + 1 }

/-- The flag a tick raises (R170). -/
def State.tickFlag (s : State) : Option EventFlag :=
  if s.tickCount + 1 = s.params.timerEventDiv then some .timer else none

/-- A tick writes the keypad and the divider, and raises its flag. -/
theorem exec_tick {s : State} (hring : ringOk s = true) (hroom : RoomInGuard s) :
    exec .tick s = .next (s.ticked.raiseIf s.tickFlag) := by
  obtain ⟨t, htick, -⟩ := tick_waitingKept hring hroom
  obtain ⟨u, hcapture, hcases⟩ := tick_next htick
  obtain rfl : s.captured = u := Except.ok.inj ((kpCapture_eq_captured hring).symm.trans hcapture)
  rw [htick]
  rcases hcases with ⟨hne, rfl⟩ | ⟨heq, rfl⟩
  · simp only [State.ticked, State.tickFlag, if_neg hne]; rfl
  · simp only [State.ticked, State.tickFlag, if_pos heq]; rfl

/-- A capture and a count write the debounce run, the ring and the divider and nothing else. -/
theorem ticked_frame {s : State} (hring : ringOk s = true) : s.ticked = { s with
    lastKey := s.ticked.lastKey, checkCount := s.ticked.checkCount, kbuf := s.ticked.kbuf, kend := s.ticked.kend
    ksize := s.ticked.ksize, tickCount := s.ticked.tickCount } := by
  have h := kpCapture_frame (kpCapture_eq_captured hring)
  unfold State.ticked
  generalize s.captured = u at h ⊢
  rw [h]

/-! ## The two orders (R187) -/

/-- `s` with the fields a slave event writes taken from `e`. -/
def State.withSlaveFields (s e : State) : State :=
  { s with
    status := e.status, mem := e.mem, mapAddr := e.mapAddr, writeStart := e.writeStart
    nack := e.nack, tx := e.tx, evMask := e.evMask, gie := e.gie }

/-- A read of the keypad neither sees nor writes these fields. -/
theorem kpRead_withSlaveFields (s e : State) :
    kpRead (s.withSlaveFields e) = ((kpRead s).1, (kpRead s).2.withSlaveFields e) := by
  unfold kpRead State.withSlaveFields
  dsimp only
  split_ifs <;> rfl

theorem kpInsert_withSlaveFields (k : Byte) (s e : State) :
    (kpInsert k (s.withSlaveFields e)).2 = (kpInsert k s).2.withSlaveFields e := by
  unfold kpInsert State.withSlaveFields
  dsimp only
  split_ifs <;> rfl

theorem ticked_withSlaveFields (s e : State) : (s.withSlaveFields e).ticked = s.ticked.withSlaveFields e := by
  have hcaptured : (s.withSlaveFields e).captured = s.captured.withSlaveFields e := by
    simp only [State.captured, kpRead_withSlaveFields, kpInsert_withSlaveFields]
    split <;> rfl
  unfold State.ticked
  rw [hcaptured]
  rfl

/-- A slave event writes no other field. -/
theorem SlaveEffect.apply_eq_withSlaveFields (x : SlaveEffect) (s : State) :
    x.apply s = s.withSlaveFields (x.apply s) := by
  obtain ⟨m, a, w, n, b, flag⟩ := x
  cases flag <;> rfl

/-- So it does not matter to the keypad and the divider whether a slave event ran before. -/
theorem ticked_apply (x : SlaveEffect) {s : State} (hring : ringOk s = true) :
    (x.apply s).ticked = x.apply s.ticked := by
  rw [x.apply_eq_withSlaveFields, ticked_withSlaveFields, ticked_frame hring]
  obtain ⟨m, a, w, n, b, flag⟩ := x
  cases flag <;> rfl

theorem tickFlag_apply (x : SlaveEffect) (s : State) : (x.apply s).tickFlag = s.tickFlag := by
  rw [x.apply_eq_withSlaveFields]; rfl

/-- Two raises commute: each sets its bit (`spec/41_events_and_main_loop.md` R120). -/
theorem raiseIf_comm (s : State) (f g : Option EventFlag) : (s.raiseIf f).raiseIf g = (s.raiseIf g).raiseIf f := by
  cases f with
  | none => rfl
  | some f =>
    cases g with
    | none => rfl
    | some g =>
      have hmask : s.evMask ||| f.mask ||| g.mask = s.evMask ||| g.mask ||| f.mask := by
        rw [BitVec.or_assoc, BitVec.or_comm f.mask, BitVec.or_assoc]
      exact congrArg (fun m => { afterBracket (s.raiseFlag f) with evMask := m }) hmask

theorem apply_raiseIf (x : SlaveEffect) (s : State) (f : Option EventFlag) :
    x.apply (s.raiseIf f) = (x.apply s).raiseIf f := by
  rw [SlaveEffect.apply, SlaveEffect.apply, ← raiseIf_comm]
  cases f <;> rfl

/-- What decides the effect of a slave event is not written by a tick. -/
theorem tick_keeps_map {s : State} (hring : ringOk s = true) (f : Option EventFlag) :
    (s.ticked.raiseIf f).mem = s.mem ∧ (s.ticked.raiseIf f).mapAddr = s.mapAddr ∧
      (s.ticked.raiseIf f).writeStart = s.writeStart ∧ (s.ticked.raiseIf f).csDepth = s.csDepth := by
  rw [ticked_frame hring]
  cases f <;> exact ⟨rfl, rfl, rfl, rfl⟩

/-- The tick after a slave event. -/
theorem exec_tick_apply (x : SlaveEffect) {s : State} (hring : ringOk s = true) (hroom : RoomInGuard s) :
    exec .tick (x.apply s) = .next (x.apply (s.ticked.raiseIf s.tickFlag)) := by
  have hring' : ringOk (x.apply s) = true := by rw [x.apply_eq_withSlaveFields]; exact hring
  have hroom' : RoomInGuard (x.apply s) := by rw [x.apply_eq_withSlaveFields]; exact hroom
  rw [exec_tick hring' hroom', ticked_apply x hring, tickFlag_apply, apply_raiseIf]

/-- Settles O10: the slave event has the same effect before and after the tick (`tick_keeps_map`), and the effect may as
well be applied last (`exec_tick_apply`); a read of `status` answers what it finds there. -/
theorem handlerOrderCommutes : Obligations.HandlerOrderCommutes := by
  intro s i hf hroom hring
  obtain ⟨hmem, haddr, hstart, hdepth⟩ := tick_keeps_map hring s.tickFlag
  have hroom' : RoomInGuard (s.ticked.raiseIf s.tickFlag) := by
    rw [RoomInGuard, hdepth]; exact hroom
  by_cases hi : ∀ k, i ≠ .rdStatus k
  · obtain ⟨effect, -, hexec⟩ := slave_decidedByMap hf hi
    refine ⟨_, _, _, _, hexec s hroom, exec_tick_apply _ hring hroom, exec_tick hring hroom, hexec _ hroom',
      fun _ => ?_, fun k hk => absurd hk (hi k)⟩
    rw [hmem, haddr, hstart]
  · obtain ⟨k, rfl⟩ : ∃ k, i = .rdStatus k := by simpa using hi
    refine ⟨_, _, _, _, exec_rdStatus k s, exec_tick_apply _ hring hroom, exec_tick hring hroom, exec_rdStatus k _,
      fun hne => absurd rfl (hne k), fun _ _ => ⟨?_, rfl⟩⟩
    rw [hmem, haddr, hstart]
    rfl

/-! ## Both pending -/

theorem countArbitration_both {s : State} (hi : s.irqI2C = true) (ht : s.irqTimer = true) :
    countArbitration s = { s with arbCount := s.arbCount + 1 } := by
  simp [countArbitration, hi, ht]

theorem tick_keeps_i2cEvent {s t : State} (h : exec .tick s = .next t) : t.i2cEvent = s.i2cEvent := by
  obtain ⟨u, hcapture, hcases⟩ := tick_next h
  have hu : u.i2cEvent = s.i2cEvent := by rw [kpCapture_frame hcapture]
  rcases hcases with ⟨-, rfl⟩ | ⟨-, rfl⟩ <;> exact hu

/-- Settles O9: whichever source is taken, its handler completes and leaves both pending bits as entry left them. -/
theorem bothPendingEitherHandlerRuns : Obligations.BothPendingEitherHandlerRuns := by
  intro s i hgie hisr hi ht hunit hdec hroom hring
  rw [step_deliver ((canDeliver_iff s).2 ⟨hgie, hisr, .inl hi⟩)]
  cases hsrc : nextSource s with
  | i2c =>
    have hroom' : RoomInGuard { s with inIsr := true, irqI2C := false, arbCount := s.arbCount + 1 } := hroom
    obtain ⟨u, hexec, hkept⟩ := slave_waitingKept (decode_slv hdec).2 hroom'
    refine ⟨_, u, ?_, rfl, .inl ⟨hexec, hkept.irqI2C, hkept.irqTimer.trans ht⟩⟩
    rw [deliver_i2c hsrc, countArbitration_both hi ht]
    have hdeliver := deliverSlave_of_decode (s := { s with arbCount := s.arbCount + 1 }) hunit hdec
    exact hdeliver.trans (congrArg returning hexec)
  | timer =>
    have hring' : ringOk { s with inIsr := true, irqTimer := false, arbCount := s.arbCount + 1 } = true := hring
    obtain ⟨u, hexec, hkept⟩ := tick_waitingKept hring' hroom
    have hevent := tick_keeps_i2cEvent hexec
    refine ⟨_, u, ?_, rfl, .inr ⟨hexec, hkept.irqI2C.trans hi, hkept.irqTimer, hevent⟩⟩
    rw [deliver_timer hsrc, countArbitration_both hi ht]
    exact congrArg returning hexec

end Sys2Proof.Machine

/-! # Masked interrupts (`spec/60_exceptions.md` R186, R192) -/

namespace Sys2Proof.Machine

/-- What the two handlers alone write, and the pending interrupts. -/
def State.handlerState (s : State) : Bool × SlaveEvent × Bool × Byte × Bool × Bool × Option Byte × Nat :=
  (s.irqI2C, s.i2cEvent, s.irqTimer, s.mapAddr, s.writeStart, s.nack, s.tx, s.tickCount)

theorem kpRead_handlerState (s : State) : (kpRead s).2.handlerState = s.handlerState := by rw [kpRead_frame]; rfl

theorem frontBody_handlerState (s : State) : (frontBody s).2.handlerState = s.handlerState := by
  rw [frontBody_frame]; rfl

theorem finalBody_handlerState (s : State) : (finalBody s).2.handlerState = s.handlerState := by
  rw [finalBody_frame]; rfl

theorem pushSlot_handlerState {n : Fin 8} {s t : State} (h : pushSlot n s = .ok t) :
    t.handlerState = s.handlerState := by
  obtain ⟨⟨cs, ht⟩, -⟩ := pushSlot_next h
  rw [ht]
  rfl

theorem handler_handlerState {f : EventFlag} {s t : State} (h : exec f.handler s = .next t) :
    t.handlerState = s.handlerState := by
  cases f with
  | timer =>
    obtain ⟨-, rfl⟩ := dspTimer_next h
    exact finalBody_handlerState s
  | setCgram => exact pushSlot_handlerState (toOutcome_next (x := pushSlot 0 s) h)
  | powerContrast | cursorSet | cursorDraw | drawLine0 | drawLine1 | drawIcon =>
    obtain ⟨cs, rfl⟩ := display_next (by simp [EventFlag.handler]) h
    rfl

theorem call_handlerState {c : MainCall} {s t : State} (h : exec c.instr s = .next t) :
    t.handlerState = s.handlerState := by
  cases c with
  | kpRead => obtain ⟨-, rfl⟩ := kpRead_next h; exact kpRead_handlerState s
  | kpFront => obtain ⟨-, rfl⟩ := kpFront_next h; exact frontBody_handlerState s
  | kpFinal => obtain ⟨-, rfl⟩ := kpFinal_next h; exact finalBody_handlerState s
  | kpClear => obtain ⟨-, rfl⟩ := kpClear_next h; rfl
  | csBegin => obtain ⟨-, rfl⟩ := csBegin_next h; rfl
  | csEnd => rcases csEnd_next h with ⟨-, rfl⟩ | ⟨-, rfl⟩ <;> rfl

/-- What is pending in `s` is pending in `t`, and what only the handlers write is as it was. -/
structure NoHandlerRan (s t : State) : Prop where
  irqI2C : s.irqI2C = true → t.irqI2C = true ∧ t.i2cEvent = s.i2cEvent
  irqTimer : s.irqTimer = true → t.irqTimer = true
  mapAddr : t.mapAddr = s.mapAddr
  writeStart : t.writeStart = s.writeStart
  nack : t.nack = s.nack
  tx : t.tx = s.tx
  tickCount : t.tickCount = s.tickCount

theorem NoHandlerRan.of_handlerState {s t : State} (h : t.handlerState = s.handlerState) : NoHandlerRan s t := by
  simp only [State.handlerState, Prod.mk.injEq] at h
  obtain ⟨hi, hevent, ht, haddr, hstart, hnack, htx, htick⟩ := h
  exact ⟨fun h => ⟨hi.trans h, hevent⟩, fun h => ht.trans h, haddr, hstart, hnack, htx, htick⟩

/-- A step that delivers no interrupt and is no restart. -/
theorem step_noHandlerRan {s t : State} (hd : canDeliver s = false) (hturns : s.turns.head? ≠ some .restart)
    (h : step s = .next t) : NoHandlerRan s t := by
  cases step_next h with
  | slave _ _ _ hd' | tick _ _ hd' => rw [hd] at hd'; cases hd'
  | kpInit ts _ _ ht => subst ht; exact .of_handlerState rfl
  | boot ts b _ _ _ ht => rcases ht with ⟨-, -, rfl⟩ | rfl <;> exact .of_handlerState rfl
  | poll ts _ _ _ he => rw [mlPoll_next he]; exact .of_handlerState rfl
  | handler ts f rest _ _ _ he => have hkept := handler_handlerState he; exact .of_handlerState hkept
  | latch ts k rest _ _ _ ht => subst ht; exact .of_handlerState rfl
  | push ts n rest _ _ _ he => have hkept := pushSlot_handlerState he; exact .of_handlerState hkept
  | lcdCall ts c rest _ _ _ ht => subst ht; exact .of_handlerState rfl
  | call ts c _ _ _ he => have hkept := call_handlerState he; exact .of_handlerState hkept
  | restart ts _ hs => rw [hs] at hturns; exact absurd rfl hturns
  | arrival _ ht hi hp =>
    exact ⟨hi, hp, (congrArg State.mapAddr ht :), (congrArg State.writeStart ht :), (congrArg State.nack ht :),
      (congrArg State.tx ht :), (congrArg State.tickCount ht :)⟩

/-- Settles O8: masked, no interrupt can be delivered, and no other step runs a handler (`step_noHandlerRan`). -/
theorem maskedInterruptsRunNoHandler : Obligations.MaskedInterruptsRunNoHandler := by
  intro s t hmasked hturns h
  have hd : canDeliver s = false := by
    rw [← Bool.not_eq_true, canDeliver_iff]
    rintro ⟨hgie, hisr, -⟩
    rcases hmasked with hm | hm
    · rw [hgie] at hm; cases hm
    · rw [hisr] at hm; cases hm
  obtain ⟨hi, ht, haddr, hstart, hnack, htx, htick⟩ := step_noHandlerRan hd hturns h
  exact ⟨hi, ht, haddr, hstart, hnack, htx, htick⟩

end Sys2Proof.Machine

/-! # No fault from sound states (`spec/60_exceptions.md` R183, `spec/43_critical_section.md` R164) -/

namespace Sys2Proof.Machine

/-- The outcome is no fault. -/
def NoFault (o : Host.Outcome State Fault Refusal) : Prop := ∀ e, o ≠ .fault e

theorem NoFault.of_next {o : Host.Outcome State Fault Refusal} {t : State} (h : o = .next t) : NoFault o := by
  rw [h]; nofun

theorem NoFault.returning {o : Host.Outcome State Fault Refusal} (h : NoFault o) : NoFault (returning o) := by
  cases o with
  | fault e => exact absurd rfl (h e)
  | next t => nofun
  | refused r => nofun

/-! ## The delivery -/

theorem slaveCallback_noFault {s : State} (hroom : RoomInGuard s) : NoFault (slaveCallback s) := by
  unfold slaveCallback
  cases s.i2cEvent.unit with
  | master => nofun
  | slave =>
    cases hdec : decode (fetchBytes s) with
    | error e => nofun
    | ok i =>
      obtain ⟨t, hexec, -⟩ := slave_waitingKept (decode_slv hdec).2 hroom
      exact .of_next hexec

theorem deliver_noFault {s : State} (hring : ringOk s = true) (hroom : RoomInGuard s) : NoFault (deliver s) := by
  obtain ⟨n, hn⟩ := countArbitration_eq s
  cases hsrc : nextSource s with
  | i2c =>
    have hroom' : RoomInGuard (enterHandler .i2c (countArbitration s)) := by rw [hn]; exact hroom
    rw [deliver_i2c hsrc]
    exact (slaveCallback_noFault hroom').returning
  | timer =>
    have hring' : ringOk (countArbitration s) = true := by rw [hn]; exact hring
    have hroom' : RoomInGuard (countArbitration s) := by rw [hn]; exact hroom
    obtain ⟨t, hdeliver, -⟩ := deliverTimer_waiting hring' hroom'
    rw [deliver_timer hsrc]
    exact .of_next hdeliver

/-! ## `MAIN` and the turns -/

theorem pushSlot_noFault (n : Fin 8) {s : State} (hroom : RoomInGuard s) : NoFault (toOutcome (pushSlot n s)) := by
  obtain ⟨t, hpush, -⟩ := pushSlot_glyphTurn n hroom
  exact .of_next hpush

theorem handler_noFault (f : EventFlag) {s : State} (hring : ringOk s = true) (hroom : RoomInGuard s) :
    NoFault (exec f.handler s) := by
  have hcalls : MakesCalls f → NoFault (exec f.handler s) := fun hf => .of_next (exec_handler_room hf hroom)
  cases f with
  | timer => exact .of_next (exec_dspTimer_room hring hroom)
  | setCgram => exact pushSlot_noFault 0 hroom
  | powerContrast | cursorSet | cursorDraw | drawLine0 | drawLine1 | drawIcon =>
    exact hcalls ⟨nofun, nofun⟩

theorem runMainOp_noFault (op : MainOp) {s : State} (hring : ringOk s = true) (hroom : RoomInGuard s) :
    NoFault (runMainOp op s) := by
  cases op with
  | handler f => exact handler_noFault f hring hroom
  | latchKey k => exact .of_next (congrArg toOutcome (latchKey_room k hroom))
  | pushSlot n => exact pushSlot_noFault n hroom
  | lcdCall c => exact .of_next rfl

theorem mainStep_noFault {s : State} (hring : ringOk s = true) (hroom : RoomInGuard s) : NoFault (mainStep s) := by
  unfold mainStep
  cases hb : s.boot with
  | kpInit => exact .of_next (if_pos hb)
  | masterInit | slaveInit | timerStart | enable => exact .of_next rfl
  | running =>
    unfold loopStep
    cases s.mainOps with
    | nil => exact .of_next (exec_mlPoll_room hroom)
    | cons op rest => exact runMainOp_noFault op (s := { s with mainOps := rest }) hring hroom

/-- Another caller's operation, but `CS_END` outside every bracket. -/
theorem call_noFault {c : MainCall} {s : State} (hring : ringOk s = true) (hroom : RoomInGuard s)
    (hend : c = .csEnd → s.csDepth ≠ 0) : NoFault (exec c.instr s) := by
  cases c with
  | kpRead => exact .of_next (exec_kpRead hring)
  | kpFront => exact .of_next (exec_kpFront hring hroom)
  | kpFinal => exact .of_next (exec_kpFinal hring hroom)
  | kpClear => exact .of_next (exec_kpClear hring hroom)
  | csBegin => exact .of_next (congrArg toOutcome (csBegin_room hroom))
  | csEnd =>
    rcases csEnd_cases s with ⟨hzero, -⟩ | ⟨-, he⟩ | ⟨-, he⟩
    · exact absurd hzero (hend rfl)
    · exact .of_next (congrArg toOutcome he)
    · exact .of_next (congrArg toOutcome he)

theorem takeTurn_noFault {x : Turn} {s : State} (hring : ringOk s = true) (hroom : RoomInGuard s)
    (hend : x = .call .csEnd → s.csDepth ≠ 0) : NoFault (takeTurn x s) := by
  cases x with
  | main => exact mainStep_noFault hring hroom
  | call c =>
    unfold takeTurn
    dsimp only
    split
    · exact call_noFault hring hroom fun hc => hend (congrArg Turn.call hc)
    · exact mainStep_noFault (s := { s with turns := .call c :: s.turns }) hring hroom
  | bus | period | keys m | restart => exact .of_next rfl

/-- Settles O18: a step is a delivery, a step of `MAIN`, or a turn. -/
theorem noFaultFromSoundStates : Obligations.NoFaultFromSoundStates := by
  intro s hsound hroom hend
  have hring := hsound.ringOk
  change NoFault (step s)
  cases hd : canDeliver s with
  | true => rw [step_deliver hd]; exact deliver_noFault hring hroom
  | false =>
    cases hts : s.turns with
    | nil => rw [step_main hd hts]; exact mainStep_noFault hring hroom
    | cons x ts =>
      rw [step_turn hd hts]
      refine takeTurn_noFault (s := { s with turns := ts }) hring hroom ?_
      rintro rfl hzero
      exact hend hzero (by rw [hts]; rfl)

end Sys2Proof.Machine

/-! # The steps of `MAIN` (`spec/70_reset_and_hazards.md` R212, `spec/41_events_and_main_loop.md` R123) -/

namespace Sys2Proof.Machine

/-! ## The stages of the boot and the pieces of the loop -/

theorem mainStep_kpInit {s : State} (hb : s.boot = .kpInit) : mainStep s = exec (.kpInit s.params.pinMap) s := by
  simp only [mainStep, hb]

theorem mainStep_masterInit {s : State} (hb : s.boot = .masterInit) :
    mainStep s = .next { s with boot := .slaveInit } := by simp only [mainStep, hb]

theorem mainStep_slaveInit {s : State} (hb : s.boot = .slaveInit) :
    mainStep s = .next { s with boot := .timerStart } := by simp only [mainStep, hb]

theorem mainStep_timerStart {s : State} (hb : s.boot = .timerStart) :
    mainStep s = .next { s with boot := .enable } := by simp only [mainStep, hb]

theorem mainStep_enable {s : State} (hb : s.boot = .enable) :
    mainStep s = .next { s with boot := .running, gie := true } := by simp only [mainStep, hb]

theorem mainStep_top {s : State} (hb : s.boot = .running) (hm : s.mainOps = []) : mainStep s = exec .mlPoll s := by
  simp only [mainStep, hb, loopStep, hm]

theorem mainStep_piece {s : State} (hb : s.boot = .running) {op : MainOp} {rest : List MainOp}
    (hm : s.mainOps = op :: rest) : mainStep s = runMainOp op { s with mainOps := rest } := by
  simp only [mainStep, hb, loopStep, hm]

/-- A call that is no pin assignment leaves the pins (R127). -/
theorem makeCall_of_not_pin {c : LcdCall} (hpanel : ∀ b, c ≠ .panelPin b) (hbacklight : ∀ b, c ≠ .backlightPin b)
    (s : State) : s.makeCall c = { s with lcd := s.lcd ++ [c] } := by
  cases c with
  | panelPin b => exact absurd rfl (hpanel b)
  | backlightPin b => exact absurd rfl (hbacklight b)
  | _ => rfl

/-- The key latch stores its key at 0x01 and nothing else (R126; D25). -/
theorem runMainOp_latchKey (k : Byte) {s : State} (hroom : RoomInGuard s) :
    ∃ t, runMainOp (.latchKey k) s = .next t ∧ t = { s with mem := t.mem, gie := decide (s.csDepth = 0) } ∧
      memRead t 0x01 = some k ∧ ∀ x, x ≠ 0x01 → memRead t x = memRead s x := by
  refine ⟨_, congrArg toOutcome (latchKey_room k hroom), rfl, ?_, fun x hx => ?_⟩
  · exact (memRead_setField s .keyValue k 0x01).trans (if_pos rfl)
  · exact (memRead_setField s .keyValue k x).trans (if_neg hx)

/-! ## The step -/

/-- With no interrupt to deliver, and nothing scheduled or its turn first, `MAIN` moves, with nothing but its turn used
up. -/
theorem step_eq_mainStep {s u : State} (hd : canDeliver s = false)
    (hu : s.turns = [] ∧ u = s ∨ ∃ ts, s.turns = .main :: ts ∧ u = { s with turns := ts }) :
    step s = mainStep u ∧ s.boot = u.boot ∧ s.mainOps = u.mainOps ∧ s.params = u.params ∧ s.csDepth = u.csDepth ∧
      memRead s = memRead u := by
  rcases hu with ⟨hts, rfl⟩ | ⟨ts, hts, rfl⟩
  · exact ⟨step_main hd hts, rfl, rfl, rfl, rfl, rfl⟩
  · exact ⟨step_turn hd hts, rfl, rfl, rfl, rfl, rfl⟩

/-- Settles O6: the step is `MAIN`'s (`step_eq_mainStep`), and each stage of the boot and each piece of the loop does what
its lemma says; a glyph's turn is `pushSlot_glyphTurn`. -/
theorem stepRunsMain : Obligations.StepRunsMain := by
  intro s u hd hu
  obtain ⟨hstep, hboot, hops, hparams, hdepth, hread⟩ := step_eq_mainStep hd hu
  have hroom : RoomInGuard s → RoomInGuard u := fun h => hdepth.symm.trans_lt h
  rw [hstep, hboot, hops, hparams, hdepth, hread]
  refine ⟨mainStep_kpInit, mainStep_masterInit, mainStep_slaveInit, mainStep_timerStart, mainStep_enable, mainStep_top,
    fun f rest hb hm => mainStep_piece hb hm, fun b rest hb hm => mainStep_piece hb hm,
    fun b rest hb hm => mainStep_piece hb hm, ?call, ?latch, ?push⟩
  case call =>
    exact fun c rest hb hm hpanel hbacklight =>
      (mainStep_piece hb hm).trans (congrArg Host.Outcome.next (makeCall_of_not_pin hpanel hbacklight _))
  case latch =>
    intro k rest hb hr hm
    rw [mainStep_piece hb hm]
    exact runMainOp_latchKey k (s := { u with mainOps := rest }) (hroom hr)
  case push =>
    intro n rest hb hr hm
    rw [mainStep_piece hb hm]
    exact pushSlot_glyphTurn n (s := { u with mainOps := rest }) (hroom hr)

end Sys2Proof.Machine
